-- ==== Sys2Proof/Word.lean ====
section
/-! DEFINITION. The word types of the UBX codec core (spec/00_scope.md R8 and R11). -/

namespace Sys2Proof

/-- `u8` (R11). -/
abbrev Byte := BitVec 8

/-- `u16` (R11). -/
abbrev Half := BitVec 16

/-- `u32` (R11). `DATA_W = 32` (R8). -/
abbrev Word := BitVec 32

/-- A byte offset of the host window. `ADDR_W = 12` (R8). -/
abbrev Addr := BitVec 12

end Sys2Proof
end

