-- ==== Sys2Proof/Syntax.lean ====
section
/-! DEFINITION. The commands of the core: one constructor per row of spec/opcode_table.json, with the operands of the
assembler syntax (spec/30_encoding.md R99). Operands are natural numbers, as R99 and R94 take them: an offset is
compared on unbounded integers, never shifted or masked; WellFormed.lean states their ranges. -/

namespace Sys2Proof

/-- A command (spec/30_encoding.md R92, R93). -/
inductive Instr where
  /-- OP 0x0 (R260). -/
  | nop
  /-- OP 0x1 (R121). -/
  | ckCompute
  /-- OP 0x2 (R122). -/
  | ckVerify
  /-- OP 0x3 (R141). -/
  | frameValidate
  /-- OP 0x4 (R221). -/
  | ubxDecode
  /-- OP 0x5, S 0, W 00 (R162). -/
  | extU8 (off : Nat)
  /-- OP 0x5, S 0, W 01 (R163). -/
  | extU16 (off : Nat)
  /-- OP 0x5, S 0, W 10 (R164). -/
  | extU32 (off : Nat)
  /-- OP 0x5, S 1, W 00 (R165). -/
  | extI8 (off : Nat)
  /-- OP 0x5, S 1, W 01 (R166). -/
  | extI16 (off : Nat)
  /-- OP 0x5, S 1, W 10 (R167). -/
  | extI32 (off : Nat)
  /-- OP 0x6 (R241). -/
  | cfgNmeaOff
  /-- OP 0x7 (R242). -/
  | cfgRate (rate : Nat)
  deriving DecidableEq, Repr

/-- The mnemonic of a command (R92, R93, R99). -/
def Instr.mnemonic : Instr → String
  | .nop => "nop"
  | .ckCompute => "ck.compute"
  | .ckVerify => "ck.verify"
  | .frameValidate => "frame.validate"
  | .ubxDecode => "ubx.decode"
  | .extU8 _ => "ext.u8"
  | .extU16 _ => "ext.u16"
  | .extU32 _ => "ext.u32"
  | .extI8 _ => "ext.i8"
  | .extI16 _ => "ext.i16"
  | .extI32 _ => "ext.i32"
  | .cfgNmeaOff => "cfg.nmea_off"
  | .cfgRate _ => "cfg.rate"

end Sys2Proof
end

