-- ==== Sys2Proof/WellFormed.lean ====
section
/-! DEFINITION. The operand ranges of the assembler syntax (spec/30_encoding.md R99): "A source operand outside its
range is an assembly error: there is no truncation." -/

namespace Sys2Proof

/-- `off` is a number 0..65535 (R99). -/
def offsetInRange (off : Nat) : Bool := decide (off < 65536)

/-- `r` is a number 0..255 (R99). -/
def rateInRange (rate : Nat) : Bool := decide (rate < 256)

/-- An instruction that has an encoding. -/
def Instr.wf : Instr → Bool
  | .nop => true
  | .ckCompute => true
  | .ckVerify => true
  | .frameValidate => true
  | .ubxDecode => true
  | .extU8 off => offsetInRange off
  | .extU16 off => offsetInRange off
  | .extU32 off => offsetInRange off
  | .extI8 off => offsetInRange off
  | .extI16 off => offsetInRange off
  | .extI32 off => offsetInRange off
  | .cfgNmeaOff => true
  | .cfgRate rate => rateInRange rate

end Sys2Proof
end

