-- ==== Sys2Proof/Decode.lean ====
section
/-! DEFINITION. The decoder and the encoder of the format CMD32 (spec/30_encoding.md R90 to R98). A command is always
exactly one 32-bit word: no prefix, no other length, no mode bits (R91). -/

namespace Sys2Proof

/-- Why a word is illegal: the conditions of R95, in the order R96 tests them. The spec's decoder says only ILLEGAL;
the names are the model's own and nothing observable depends on them. DESIGN CHOICE, safe: log 9. -/
inductive IllegalWord where
  /-- R95.3: bit 7 is 1. -/
  | reservedBit7
  /-- R95.4: OP is not 0x5 and bits 6:4 are not 0. -/
  | unusedWidthOrSign
  /-- R95.5: OP is not 0x7 and IMM8 is not 0. -/
  | unusedImm8
  /-- R95.6: OP is not 0x5 and OFF16 is not 0. -/
  | unusedOff16
  /-- R95.2: OP is 0x5 and W is 11. -/
  | reservedWidth
  /-- R95.1: OP is in 0x8..0xF. -/
  | reservedOp
  deriving DecidableEq, Repr

/-- What the decoder answers: a command, or ILLEGAL (R96). -/
inductive Decoded where
  | instr (i : Instr)
  | illegal (why : IllegalWord)
  deriving DecidableEq, Repr

/-- `OP = w[3:0]` (R91). -/
def opField (w : Word) : BitVec 4 := w.extractLsb' 0 4
/-- `W = w[5:4]` (R91). -/
def widthField (w : Word) : BitVec 2 := w.extractLsb' 4 2
/-- `S = w[6]` (R91). -/
def signField (w : Word) : BitVec 1 := w.extractLsb' 6 1
/-- `R7 = w[7]` (R91). -/
def r7Field (w : Word) : BitVec 1 := w.extractLsb' 7 1
/-- `IMM8 = w[15:8]` (R91, R94). -/
def imm8Field (w : Word) : Byte := w.extractLsb' 8 8
/-- `OFF16 = w[31:16]` (R91, R94). -/
def off16Field (w : Word) : Half := w.extractLsb' 16 16

/-- The extractor variants (R93). -/
def decodeExt (sign : BitVec 1) (width : BitVec 2) (off : Nat) : Decoded :=
  match sign, width with
  | 0#1, 0#2 => .instr (.extU8 off)
  | 0#1, 1#2 => .instr (.extU16 off)
  | 0#1, 2#2 => .instr (.extU32 off)
  | 1#1, 0#2 => .instr (.extI8 off)
  | 1#1, 1#2 => .instr (.extI16 off)
  | 1#1, 2#2 => .instr (.extI32 off)
  | _, _ => .illegal .reservedWidth

/-- The operation selected by OP, once the unused fields are known to be 0 (R92, R96). -/
def decodeOp (w : Word) : Decoded :=
  match opField w with
  | 0#4 => .instr .nop
  | 1#4 => .instr .ckCompute
  | 2#4 => .instr .ckVerify
  | 3#4 => .instr .frameValidate
  | 4#4 => .instr .ubxDecode
  | 5#4 => decodeExt (signField w) (widthField w) (off16Field w).toNat
  | 6#4 => .instr .cfgNmeaOff
  | 7#4 => .instr (.cfgRate (imm8Field w).toNat)
  | _ => .illegal .reservedOp

/-- `decode(w)`, total on every 32-bit word (R96). -/
def decode (w : Word) : Decoded :=
  if r7Field w = 1#1 then .illegal .reservedBit7
  else if opField w ≠ 5#4 ∧ (widthField w ≠ 0#2 ∨ signField w ≠ 0#1) then .illegal .unusedWidthOrSign
  else if opField w ≠ 7#4 ∧ imm8Field w ≠ 0#8 then .illegal .unusedImm8
  else if opField w ≠ 5#4 ∧ off16Field w ≠ 0#16 then .illegal .unusedOff16
  else decodeOp w

/-- The word made of the fields of CMD32, bit 31 first: OFF16, IMM8, R7 = 0, S, W, OP (R91, R98). -/
def commandWord (off16 : Half) (imm8 : Byte) (sign : BitVec 1) (width : BitVec 2) (op : BitVec 4) : Word :=
  off16 ++ imm8 ++ 0#1 ++ sign ++ width ++ op

/-- The encoding of a well-formed command (R98). -/
def encode : Instr → Word
  | .nop => commandWord 0 0 0 0 0x0
  | .ckCompute => commandWord 0 0 0 0 0x1
  | .ckVerify => commandWord 0 0 0 0 0x2
  | .frameValidate => commandWord 0 0 0 0 0x3
  | .ubxDecode => commandWord 0 0 0 0 0x4
  | .extU8 off => commandWord (BitVec.ofNat 16 off) 0 0 0 0x5
  | .extU16 off => commandWord (BitVec.ofNat 16 off) 0 0 1 0x5
  | .extU32 off => commandWord (BitVec.ofNat 16 off) 0 0 2 0x5
  | .extI8 off => commandWord (BitVec.ofNat 16 off) 0 1 0 0x5
  | .extI16 off => commandWord (BitVec.ofNat 16 off) 0 1 1 0x5
  | .extI32 off => commandWord (BitVec.ofNat 16 off) 0 1 2 0x5
  | .cfgNmeaOff => commandWord 0 0 0 0 0x6
  | .cfgRate rate => commandWord 0 (BitVec.ofNat 8 rate) 0 0 0x7

/-- The command word whose bits are the low `nbits` bits of `w`, as spec/opcode_table.json numbers them: bit 0 is the
least significant bit of the word, and every bit above `nbits` is 0. -/
def tableWord (nbits w : Nat) : Word := BitVec.ofNat 32 (w % 2 ^ nbits)

/-- The instruction the decoder reads from a word of spec/opcode_table.json, none where the word is illegal. -/
def decodeTableWord (nbits w : Nat) : Option Instr :=
  match decode (tableWord nbits w) with
  | .instr i => some i
  | .illegal _ => none

end Sys2Proof
end

