-- ==== Sys2Proof/Config.lean ====
section
/-! DEFINITION. The constants and the implementation parameters of spec/00_scope.md R8, and the one free value of the
model (the bytes of IN_BUF that nothing has written since reset). -/

namespace Sys2Proof.Config

/-- First sync byte, frame offset 0 (R8, source). -/
def sync1 : Byte := 0xB5#8
/-- Second sync byte, frame offset 1 (R8, source). -/
def sync2 : Byte := 0x62#8
/-- Minimum frame size in bytes (R8, source). -/
def minFrame : Nat := 8
/-- Header bytes before the payload (R8, source). -/
def hdrLen : Nat := 6
/-- Expected NAV-PVT payload length (R8, source). -/
def pvtLen : Nat := 92
/-- Total NAV-PVT frame size (R8, derived: 8 + 92). -/
def pvtFrame : Nat := 100
/-- Navigation message class. PRESUMED by the spec itself (R8, gk): log 6. -/
def clsNav : Byte := 0x01#8
/-- NAV-PVT message id. PRESUMED by the spec itself (R8, gk): log 6. -/
def idPvt : Byte := 0x07#8
/-- Configuration message class. PRESUMED by the spec itself (R8, gk): log 6. -/
def clsCfg : Byte := 0x06#8
/-- CFG-VALSET message id. PRESUMED by the spec itself (R8, gk): log 6. -/
def idValset : Byte := 0x8A#8
/-- Payload length of a built configuration frame (R8, source). -/
def valsetLen : Nat := 9
/-- Total size of a built configuration frame (R8, derived: 8 + 9), also `N_OUT`. -/
def cfgFrame : Nat := 17
/-- Value-set header byte 0. PRESUMED by the spec itself (R8, gk): log 6. -/
def valsetVersion : Byte := 0x00#8
/-- Value-set header byte 1, the RAM layer. PRESUMED by the spec itself (R8, gk): log 6. -/
def valsetLayer : Byte := 0x01#8
/-- Value byte of the disable frame (R8, derived). -/
def nmeaOffValue : Byte := 0x00#8

/-- The parameters a model takes as arguments (R8). They stand in State, no step writes them, and every claim about
all states is a claim about all their values. DESIGN CHOICE, safe: log 2. -/
structure Params where
  /-- `N_IN`: input buffer capacity in bytes. -/
  nIn : Nat
  /-- `NMEA_KEY`: what KEY_NMEA reads. -/
  nmeaKey : Word
  /-- `RATE_KEY_DEFAULT`: reset value of KEY_RATE. -/
  rateKeyDefault : Word
  deriving DecidableEq, Repr

/-- The legal values of `N_IN`: 100 to 1024, a multiple of 4 (R8). -/
abbrev Params.Ok (p : Params) : Prop := 100 ≤ p.nIn ∧ p.nIn ≤ 1024 ∧ p.nIn % 4 = 0

/-- The reference value of `N_IN` and the defaults of the two keys (R8). -/
def Params.reference : Params :=
  { nIn := 256, nmeaKey := 0x10740002#32, rateKeyDefault := 0x20910007#32 }

/-- FREE VALUE: the byte drawn for frame offset `i` of IN_BUF at draw number `n` (spec/10_state.md R41,
spec/70_reset_and_hazards.md R341: "a model draws each byte freely"). No body: nothing can be proved of it. Log 3. -/
opaque inBufDraw : (n : Nat) → (i : Nat) → Byte

end Sys2Proof.Config
end

