-- ==== Sys2Proof/Machine/Memory.lean ====
section
/-! DEFINITION. A memory as plain data: the bytes written since reset, as (address, byte) pairs in one canonical form.
An unlisted address holds no written byte; what it then reads as is `State.inByte` (Machine/Ops.lean). -/

namespace Sys2Proof.Machine

/-- The written bytes, addresses strictly rising. An entry is always a written byte, so no entry equals what an
unlisted address holds (nothing written). -/
abbrev Memory := List Host.Cell

/-- The byte written at `a`, if any. -/
def Memory.read : Memory → Nat → Option Byte
  | [], _ => none
  | (k, b) :: m, a => if k = a then some b else Memory.read m a

/-- Write the byte `b` at `a`, keeping the addresses rising. -/
def Memory.write : Memory → Nat → Byte → Memory
  | [], a, b => [(a, b)]
  | (k, c) :: m, a, b =>
    if a < k then (a, b) :: (k, c) :: m
    else if a = k then (a, b) :: m
    else (k, c) :: Memory.write m a b

/-- The canonical form: addresses strictly rising, each listed once. -/
def Memory.wf : Memory → Bool
  | [] => true
  | (k, _) :: m => m.all (fun c => decide (k < c.1)) && Memory.wf m

/-- Every listed address is below `n`. -/
def Memory.within (n : Nat) (m : Memory) : Bool := m.all (fun c => decide (c.1 < n))

end Sys2Proof.Machine
end

