-- ==== Sys2Proof/Machine/State.lean ====
section
/-! DEFINITION. Everything the spec gives the machine (spec/10_state.md), as plain data, the state after reset (R47), and
the reasons a step can stop (none: spec/60_exceptions.md R301, R304). -/

namespace Sys2Proof.Machine

open Sys2Proof.Config (Params)

/-- The rejection reasons the core produces (spec/60_exceptions.md R300). Codes 9..15 are never produced, so they
have no constructor. -/
inductive Reason where
  | ok
  | tooShort
  | badSync
  | badChecksum
  | unknownMessage
  | payloadLengthMismatch
  | payloadTruncated
  | range
  | illegalCmd
  deriving DecidableEq, Repr

/-- The fields of STATUS (R24). Bits 31:9 are RAZ/WI: they hold nothing. -/
structure Status where
  busy : Bool
  done : Bool
  pass : Bool
  navValid : Bool
  reason : Reason
  ovr : Bool
  deriving DecidableEq, Repr

/-- CK_RESULT (R34): CK_A in bits 7:0, CK_B in bits 15:8. -/
structure CkResult where
  a : Byte
  b : Byte
  deriving DecidableEq, Repr

/-- FRAME_INFO (R39): CLASS in bits 7:0, ID in bits 15:8, LENGTH in bits 31:16. -/
structure FrameInfo where
  cls : Byte
  id : Byte
  len : Half
  deriving DecidableEq, Repr

/-- The three access sizes, of a host access (R63, R64) and of a field extraction (R93). -/
inductive AccessSize where
  | one
  | two
  | four
  deriving DecidableEq, Repr

/-- One atomic step of an agent (R7, R69, R340). -/
inductive Event where
  /-- The host performs `MemRead(addr, size)` (R63). -/
  | read (addr : Addr) (size : AccessSize)
  /-- The host performs `MemWrite(addr, size, v)` (R64). -/
  | write (addr : Addr) (size : AccessSize) (v : Word)
  /-- The engine has the turn: it takes the completion step of the command in PENDING, if there is one (R46). -/
  | engine
  /-- `rst` is asserted: one atomic step (R340). -/
  | reset
  deriving DecidableEq, Repr

/-- What the host port answered last. -/
inductive PortResponse where
  /-- No access since reset. -/
  | none
  /-- A read's data (R63). -/
  | data (v : Word)
  /-- A write was taken, whether or not it had an effect (R64). -/
  | written
  /-- The access was misaligned or wrongly sized (R310). -/
  | busError
  deriving DecidableEq, Repr

/-- The NAV register file (R40): NAV[0..31]. -/
abbrev NavFile := Vector Word 32

/-- OUT_BUF (R42): OUT[0..16]. -/
abbrev Frame17 := Vector Byte 17

/-- The machine. -/
structure State where
  /-- The implementation parameters (spec/00_scope.md R8): no step writes them. Log 2. -/
  params : Params
  /-- PENDING (R43): the command word accepted and not yet completed. CMD itself stores nothing else (R23). -/
  pending : Option Word
  /-- STATUS (R24). -/
  status : Status
  /-- IN_SIZE.SIZE (R31). -/
  inSize : Half
  /-- CK_START.START (R32). -/
  ckStart : Half
  /-- CK_END.END (R33). -/
  ckEnd : Half
  /-- CK_RESULT (R34). -/
  ckResult : CkResult
  /-- EXT_DATA (R35). -/
  extData : Word
  /-- OUT_LEN[7:0] (R36). -/
  outLen : Byte
  /-- KEY_RATE (R37). -/
  keyRate : Word
  /-- FRAME_INFO (R39). -/
  frameInfo : FrameInfo
  /-- NAV[0..31] (R40). -/
  nav : NavFile
  /-- OUT[0..16] (R42). -/
  outBuf : Frame17
  /-- IN_BUF (R41): the bytes written since reset, by frame offset. -/
  inBuf : Memory
  /-- The model's own: which draw the unwritten bytes of IN_BUF come from (R341). Log 3. -/
  draws : Nat
  /-- The model's own: what the agents do next, oldest first (R69, R313). Log 1. -/
  schedule : List Event
  /-- The model's own: the host port's last response (R310). Log 4. -/
  port : PortResponse
  deriving DecidableEq, Repr

/-- The faults of the machine: there are none. "Nothing in this core is fatal" (R301): a rejection is a completion,
and a BusError is a response. Log 8. -/
inductive Fault where
  deriving DecidableEq, Repr

/-- The refusals of the machine. -/
inductive Refusal where
  /-- An instruction without a meaning, refused by name in Machine/Dispatch.lean. Safe. No arm raises it. -/
  | notModelled (mnemonic : String)
  deriving DecidableEq, Repr

/-- STATUS after reset: every field 0 (R24, R47). -/
def Status.zero : Status :=
  { busy := false, done := false, pass := false, navValid := false, reason := .ok, ovr := false }

/-- The machine of parameters `p` right after reset (R47), with the bytes of IN_BUF taken from draw `n` (R341). The
three last fields are the model's own (log 1, 3, 4). -/
def State.resetWith (p : Params) (n : Nat) : State :=
  { params := p
    pending := none
    status := Status.zero
    inSize := 0
    ckStart := 0
    ckEnd := 0
    ckResult := { a := 0, b := 0 }
    extData := 0
    outLen := 0
    keyRate := p.rateKeyDefault
    frameInfo := { cls := 0, id := 0, len := 0 }
    nav := Vector.replicate 32 0#32
    outBuf := Vector.replicate 17 0#8
    inBuf := []
    draws := n
    schedule := []
    port := .none }

/-- The machine right after reset, with the reference value of `N_IN` and the default keys (R8, R47). -/
def State.reset : State := State.resetWith Params.reference 0

end Sys2Proof.Machine
end

