-- ==== Sys2Proof/Machine/Flags.lean ====
section
/-! DEFINITION. STATUS: its word, and every way an access or a completion writes it (spec/10_state.md R24 to R30,
spec/60_exceptions.md R300, R303). -/

namespace Sys2Proof.Machine

/-- The codes of R300. -/
def Reason.code : Reason → BitVec 4
  | .ok => 0
  | .tooShort => 1
  | .badSync => 2
  | .badChecksum => 3
  | .unknownMessage => 4
  | .payloadLengthMismatch => 5
  | .payloadTruncated => 6
  | .range => 7
  | .illegalCmd => 8

/-- STATUS as the host reads it (R24): bits 31:9 read 0. -/
def Status.toWord (st : Status) : Word :=
  0#23 ++ BitVec.ofBool st.ovr ++ st.reason.code ++ BitVec.ofBool st.navValid ++ BitVec.ofBool st.pass
    ++ BitVec.ofBool st.done ++ BitVec.ofBool st.busy

/-- The acceptance of a command: BUSY 1 and DONE 0, nothing else (R25, R90). -/
def Status.accepted (st : Status) : Status := { st with busy := true, done := false }

/-- STATUS at `accept()`: PASS 1, REASON 0, BUSY 0, DONE 1 (R45). -/
def Status.passed (st : Status) : Status :=
  { st with busy := false, done := true, pass := true, reason := .ok }

/-- STATUS at `reject(code)`: PASS 0, REASON the code, BUSY 0, DONE 1 (R303). -/
def Status.rejected (st : Status) (code : Reason) : Status :=
  { st with busy := false, done := true, pass := false, reason := code }

/-- A dropped host write sets OVR (R30, R44). -/
def Status.overrun (st : Status) : Status := { st with ovr := true }

/-- A host write `v` to STATUS: bit 8 = 1 clears OVR, and no other bit has an effect (R24, R30). -/
def Status.hostWrite (st : Status) (v : Word) : Status :=
  if v.getLsbD 8 then { st with ovr := false } else st

/-- NAV_VALID 1, at the accept() of ubx.decode (R28). -/
def Status.withNavValid (st : Status) : Status := { st with navValid := true }

end Sys2Proof.Machine
end

