-- ==== Sys2Proof/Machine/Ops.lean ====
section
/-! DEFINITION. The named operations: bytes and byte order, IN_BUF, the Fletcher-8 accumulator, and the two ends of a
command, `accept()` and `reject(code)`, which are this machine's whole exception model (spec/60_exceptions.md R303,
R304: a rejection saves nothing, changes no mode and transfers control nowhere; there is no return from it). -/

namespace Sys2Proof.Machine

/-- The number of bytes of an access. -/
def AccessSize.bytes : AccessSize → Nat
  | .one => 1
  | .two => 2
  | .four => 4

/-- Byte `k` of a word, bits `[8k+7:8k]` (R65). -/
def byteOf (v : Word) (k : Nat) : Byte := v.extractLsb' (8 * k) 8

/-- The little-endian composition of the `n` bytes `rd i, …, rd (i+n-1)`: byte `k` stands at bits `[8k+7:8k]`
(R63, R65, R160). -/
def composeLE (rd : Nat → Byte) (i : Nat) : Nat → Word
  | 0 => 0#32
  | k + 1 => composeLE rd i k ||| ((rd (i + k)).setWidth 32 <<< (8 * k))

/-- Store the low `n` bytes of `v` at `i, …, i+n-1`, least significant first (R64, R65). -/
def Memory.writeLE (m : Memory) (i : Nat) (v : Word) : Nat → Memory
  | 0 => m
  | k + 1 => (Memory.writeLE m i v k).write (i + k) (byteOf v k)

/-- `IN[i]` (R12, R41): the byte written since reset, and a drawn byte where none was written (R341: the free value
`Config.inBufDraw`, log 3). -/
def State.inByte (s : State) (i : Nat) : Byte := (s.inBuf.read i).getD (Config.inBufDraw s.draws i)

/-- `OUT[i]` (R42), and 0 outside the buffer. -/
def State.outByte (s : State) (i : Nat) : Byte := s.outBuf.toList.getD i 0#8

/-- The bytes `IN[i..j)`, empty when `i >= j` (R120). -/
def State.inRange (s : State) (i j : Nat) : List Byte := (List.range' i (j - i)).map s.inByte

/-- One turn of the Fletcher-8 loop: both sums wrap modulo 256 (R120). -/
def fletcherStep (acc : Byte × Byte) (x : Byte) : Byte × Byte := (acc.1 + x, acc.2 + (acc.1 + x))

/-- The Fletcher-8 pair `(a, b)` over a byte sequence (R120). -/
def fletcherOf (bytes : List Byte) : Byte × Byte := bytes.foldl fletcherStep (0#8, 0#8)

/-- `fletcher(i, j)`: the Fletcher-8 pair over `IN[i..j)` (R120). -/
def fletcher (s : State) (i j : Nat) : Byte × Byte := fletcherOf (s.inRange i j)

/-- The acceptance of the command word `w`: `PENDING <- w; STATUS.BUSY <- 1; STATUS.DONE <- 0` (R90). -/
def issue (w : Word) (s : State) : State := { s with pending := some w, status := s.status.accepted }

/-- `accept()`, applied to the state that already holds the command's results (R45). -/
def accept (s : State) : State := { s with pending := none, status := s.status.passed }

/-- `reject(code)` (R303). -/
def reject (code : Reason) (s : State) : State := { s with pending := none, status := s.status.rejected code }

end Sys2Proof.Machine
end

