-- ==== Sys2Proof/Machine/Operands.lean ====
section
/-! DEFINITION. The operand forms of the commands: little-endian fields of IN_BUF (spec/42_field_extractor.md R160,
R161), the rate immediate (spec/30_encoding.md R94) and the frame header (spec/10_state.md R39). -/

namespace Sys2Proof.Machine

/-- `LE(i, n)`: the little-endian unsigned read of `n` bytes of IN_BUF (R12, R160). -/
def le (s : State) (i n : Nat) : Word := composeLE s.inByte i n

/-- The sign extension of the low `8n` bits to 32 bits (R11, R160). -/
def signExtendBytes (v : Word) (n : Nat) : Word := (v.setWidth (8 * n)).signExtend 32

/-- `extract(i, n, signed)` (R160). -/
def extract (s : State) (i n : Nat) (signed : Bool) : Word :=
  if signed then signExtendBytes (le s i n) n else le s i n

/-- `ext_check(off, n)`: RANGE when IN_SIZE is beyond the capacity or the field runs past IN_SIZE; the sum is of
unbounded integers (R161). -/
def extCheck (s : State) (off n : Nat) : Reason :=
  if s.params.nIn < s.inSize.toNat then .range
  else if s.inSize.toNat < off + n then .range
  else .ok

/-- The rate byte: IMM8 taken as a u8 without extension or scaling (R94). -/
def rateByte (rate : Nat) : Byte := BitVec.ofNat 8 rate

/-- `{LE(4, 2)[15:0], IN[3], IN[2]}`: the LENGTH, ID and CLASS of the frame in IN_BUF (R39, R141, R221). -/
def headerOf (s : State) : FrameInfo :=
  { cls := s.inByte 2, id := s.inByte 3, len := (le s 4 2).setWidth 16 }

end Sys2Proof.Machine
end

