-- ==== Sys2Proof/Machine/Checksum.lean ====
section
/-! DEFINITION. The checksum engine (spec/40_checksum.md): ck.compute and ck.verify. -/

namespace Sys2Proof.Machine

/-- The trailing-checksum test: the Fletcher-8 pair over `IN[2..IN_SIZE-2)` against the two last bytes, ck_a first
(R122, R140 step 3). -/
def checksumMatches (s : State) : Bool :=
  let size := s.inSize.toNat
  let ck := fletcher s 2 (size - 2)
  decide (ck.1 = s.inByte (size - 2) ∧ ck.2 = s.inByte (size - 1))

/-- ck.compute (R121). -/
def execCkCompute (s : State) : Host.Outcome State Fault Refusal :=
  let first := s.ckStart.toNat
  let last := s.ckEnd.toNat
  if s.params.nIn < s.inSize.toNat then .next (reject .range s)
  else if first < last ∧ s.inSize.toNat < last then .next (reject .range s)
  else
    let ck := fletcher s first last
    .next (accept { s with ckResult := { a := ck.1, b := ck.2 } })

/-- ck.verify (R122). -/
def execCkVerify (s : State) : Host.Outcome State Fault Refusal :=
  if s.params.nIn < s.inSize.toNat then .next (reject .range s)
  else if s.inSize.toNat < 4 then .next (reject .tooShort s)
  else if checksumMatches s then .next (accept s)
  else .next (reject .badChecksum s)

end Sys2Proof.Machine
end

