-- ==== Sys2Proof/Machine/ConfigBuilder.lean ====
section
/-! DEFINITION. The configuration frame assembler (spec/45_config_builder.md): cfg.nmea_off and cfg.rate. -/

namespace Sys2Proof.Machine

/-- Bytes `F[0..14]` of the CFG-VALSET frame (R240). -/
def frameBody (key : Word) (value : Byte) : List Byte :=
  [Config.sync1, Config.sync2, Config.clsCfg, Config.idValset,
   byteOf (BitVec.ofNat 32 Config.valsetLen) 0, byteOf (BitVec.ofNat 32 Config.valsetLen) 1,
   Config.valsetVersion, Config.valsetLayer, 0x00#8, 0x00#8,
   byteOf key 0, byteOf key 1, byteOf key 2, byteOf key 3, value]

/-- `build(key, value)`: the body, then the Fletcher-8 pair over `F[2..15)`, ck_a first (R240). -/
def build (key : Word) (value : Byte) : Frame17 :=
  let ck := fletcherOf ((frameBody key value).drop 2)
  ⟨(frameBody key value ++ [ck.1, ck.2]).toArray, rfl⟩

/-- The completion of a cfg.* command with the finished frame (R241, R242). -/
def commitFrame (f : Frame17) (s : State) : State :=
  accept { s with outBuf := f, outLen := BitVec.ofNat 8 Config.cfgFrame }

/-- cfg.nmea_off (R241). -/
def execCfgNmeaOff (s : State) : Host.Outcome State Fault Refusal :=
  .next (commitFrame (build s.params.nmeaKey Config.nmeaOffValue) s)

/-- cfg.rate (R242). -/
def execCfgRate (rate : Nat) (s : State) : Host.Outcome State Fault Refusal :=
  .next (commitFrame (build s.keyRate (rateByte rate)) s)

end Sys2Proof.Machine
end

