-- ==== Sys2Proof/Machine/Control.lean ====
section
/-! DEFINITION. The control commands (spec/46_control.md): nop. -/

namespace Sys2Proof.Machine

/-- nop does nothing except complete (R260). -/
def execNop (s : State) : Host.Outcome State Fault Refusal := .next (accept s)

end Sys2Proof.Machine
end

