-- ==== Sys2Proof/Machine/Extractor.lean ====
section
/-! DEFINITION. The field extractor commands (spec/42_field_extractor.md): ext.u8, ext.u16, ext.u32, ext.i8, ext.i16 and
ext.i32. -/

namespace Sys2Proof.Machine

/-- The shared form of ext.*: the range check, then EXT_DATA (R161 to R167). -/
def extCommand (off n : Nat) (signed : Bool) (s : State) : Host.Outcome State Fault Refusal :=
  if extCheck s off n = .ok then .next (accept { s with extData := extract s off n signed })
  else .next (reject (extCheck s off n) s)

/-- ext.u8 (R162). -/
def execExtU8 (off : Nat) (s : State) : Host.Outcome State Fault Refusal := extCommand off 1 false s

/-- ext.u16 (R163). -/
def execExtU16 (off : Nat) (s : State) : Host.Outcome State Fault Refusal := extCommand off 2 false s

/-- ext.u32 (R164). -/
def execExtU32 (off : Nat) (s : State) : Host.Outcome State Fault Refusal := extCommand off 4 false s

/-- ext.i8 (R165). -/
def execExtI8 (off : Nat) (s : State) : Host.Outcome State Fault Refusal := extCommand off 1 true s

/-- ext.i16 (R166). -/
def execExtI16 (off : Nat) (s : State) : Host.Outcome State Fault Refusal := extCommand off 2 true s

/-- ext.i32 (R167). -/
def execExtI32 (off : Nat) (s : State) : Host.Outcome State Fault Refusal := extCommand off 4 true s

end Sys2Proof.Machine
end

