-- ==== Sys2Proof/Machine/CodecTypes.lean ====
section
/-! DEFINITION. The types of the decode tables: a row of the NAV-PVT field table (spec/43_pvt_decoder.md R180), and a row
of the dispatch table (spec/00_scope.md R9); and those of the host port: what a host write reaches
(spec/20_memory.md R64) and a line of a host program (spec/30_encoding.md R99 to R101). -/

namespace Sys2Proof.Machine

/-- A row of R180: the field's name, payload offset, width in bytes and signedness. -/
structure NavField where
  name : String
  payloadOff : Nat
  bytes : Nat
  signed : Bool
  deriving DecidableEq, Repr

/-- The decoders a message can be routed to (R9, R220): CORE-1 has one. -/
inductive DecoderId where
  | pvt
  deriving DecidableEq, Repr

/-- A row of DISPATCH (R9): (class, id) and its decoder. -/
structure DispatchRow where
  cls : Byte
  id : Byte
  decoder : DecoderId
  deriving DecidableEq, Repr

/-- `target(addr)`: what a host write at a window offset reaches (R64). -/
inductive Target where
  | cmd
  | status
  | inSize
  | ckStart
  | ckEnd
  | keyRate
  /-- IN_BUF, from frame offset `i`. -/
  | inBuf (i : Nat)
  /-- A read-only register, OUT_BUF or a reserved offset. -/
  | other
  deriving DecidableEq, Repr

/-- A line of a host program (spec/30_encoding.md R99 to R101). -/
inductive HostLine where
  /-- `sw off, v` (R100). -/
  | sw (off : Addr) (v : Word)
  /-- `sh off, v` (R100). -/
  | sh (off : Addr) (v : Half)
  /-- `sb off, v` (R100). -/
  | sb (off : Addr) (v : Byte)
  /-- `lw off -> name` (R100). -/
  | lw (off : Addr)
  /-- `lb off -> name` (R100). -/
  | lb (off : Addr)
  /-- A command mnemonic line (R99). -/
  | command (i : Instr)
  /-- `ck.range s, e` (R101). -/
  | ckRange (first last : Word)
  /-- `in.size n` (R101). -/
  | inSize (n : Word)
  /-- `in.bytes i, b0 b1 ... bk` (R101), with offsets beyond the window as log 15 says. -/
  | inBytes (i : Nat) (bytes : List Byte)
  /-- `wait` (R101), in a run in which the loop reads STATUS `polls + 1` times. -/
  | wait (polls : Nat)
  /-- `ext.pvt name` (R101), the field being row `k` of R180. -/
  | extPvt (k : Fin 32)
  /-- `key.rate k` (R101). -/
  | keyRate (k : Word)
  deriving DecidableEq, Repr

end Sys2Proof.Machine
end

