-- ==== Sys2Proof/Machine/PvtDecoder.lean ====
section
/-! DEFINITION. The NAV-PVT record decoder (spec/43_pvt_decoder.md), the third stage of ubx.decode. -/

namespace Sys2Proof.Machine

/-- The record layout, row `k` for `NAV[k]` (R180, R181). PRESUMED by the spec itself (gk): log 6. Payload bytes
80..83 are reserved and not extracted. Units are not interpreted (R186). -/
def navTable : Vector NavField 32 := #v[
  ⟨"iTOW", 0, 4, false⟩,      -- 0, ms
  ⟨"year", 4, 2, false⟩,      -- 1, year (UTC)
  ⟨"month", 6, 1, false⟩,     -- 2, month
  ⟨"day", 7, 1, false⟩,       -- 3, day
  ⟨"hour", 8, 1, false⟩,      -- 4, hour
  ⟨"min", 9, 1, false⟩,       -- 5, minute
  ⟨"sec", 10, 1, false⟩,      -- 6, second
  ⟨"valid", 11, 1, false⟩,    -- 7, bit field
  ⟨"tAcc", 12, 4, false⟩,     -- 8, ns
  ⟨"nano", 16, 4, true⟩,      -- 9, ns
  ⟨"fixType", 20, 1, false⟩,  -- 10, enumeration
  ⟨"flags", 21, 1, false⟩,    -- 11, bit field
  ⟨"flags2", 22, 1, false⟩,   -- 12, bit field
  ⟨"numSV", 23, 1, false⟩,    -- 13, count
  ⟨"lon", 24, 4, true⟩,       -- 14, 1e-7 deg
  ⟨"lat", 28, 4, true⟩,       -- 15, 1e-7 deg
  ⟨"height", 32, 4, true⟩,    -- 16, mm above ellipsoid
  ⟨"hMSL", 36, 4, true⟩,      -- 17, mm above mean sea level
  ⟨"hAcc", 40, 4, false⟩,     -- 18, mm
  ⟨"vAcc", 44, 4, false⟩,     -- 19, mm
  ⟨"velN", 48, 4, true⟩,      -- 20, mm/s
  ⟨"velE", 52, 4, true⟩,      -- 21, mm/s
  ⟨"velD", 56, 4, true⟩,      -- 22, mm/s
  ⟨"gSpeed", 60, 4, true⟩,    -- 23, mm/s
  ⟨"headMot", 64, 4, true⟩,   -- 24, 1e-5 deg
  ⟨"sAcc", 68, 4, false⟩,     -- 25, mm/s
  ⟨"headAcc", 72, 4, false⟩,  -- 26, 1e-5 deg
  ⟨"pDOP", 76, 2, false⟩,     -- 27, 0.01
  ⟨"flags3", 78, 2, false⟩,   -- 28, bit field
  ⟨"headVeh", 84, 4, true⟩,   -- 29, 1e-5 deg
  ⟨"magDec", 88, 2, true⟩,    -- 30, 1e-2 deg
  ⟨"magAcc", 90, 2, false⟩]   -- 31, 1e-2 deg

/-- `rec[k]`: the field of row `k`, read at frame offset 6 + payload offset (R180, R184). -/
def navValue (s : State) (k : Fin 32) : Word :=
  extract s (Config.hdrLen + navTable[k].payloadOff) navTable[k].bytes navTable[k].signed

/-- The length check of the NAV-PVT path: the declared length first, then the truncation check (R182, R183). -/
def pvtCheck (s : State) : Reason :=
  if (le s 4 2).toNat ≠ Config.pvtLen then .payloadLengthMismatch
  else if s.inSize.toNat < Config.pvtFrame then .payloadTruncated
  else .ok

/-- `pvt_decode()`: a rejection, or the whole new record (R184). -/
def pvtDecode (s : State) : Except Reason NavFile :=
  if pvtCheck s = .ok then .ok (Vector.ofFn (navValue s)) else .error (pvtCheck s)

end Sys2Proof.Machine
end

