-- ==== Sys2Proof/Machine/Validator.lean ====
section
/-! DEFINITION. The frame sync and length validator (spec/41_frame_validator.md): frame.validate. -/

namespace Sys2Proof.Machine

/-- `validate()`: OK, or the reason of the first failing step. The length field is not compared with IN_SIZE
(R140, R142). -/
def validate (s : State) : Reason :=
  if s.params.nIn < s.inSize.toNat then .range
  else if s.inSize.toNat < Config.minFrame then .tooShort
  else if s.inByte 0 ≠ Config.sync1 ∨ s.inByte 1 ≠ Config.sync2 then .badSync
  else if checksumMatches s then .ok
  else .badChecksum

/-- frame.validate (R141). -/
def execFrameValidate (s : State) : Host.Outcome State Fault Refusal :=
  if validate s = .ok then .next (accept { s with frameInfo := headerOf s })
  else .next (reject (validate s) s)

end Sys2Proof.Machine
end

