-- ==== Sys2Proof/Machine/MessageDispatcher.lean ====
section
/-! DEFINITION. The message dispatcher and ubx.decode (spec/44_dispatcher.md). -/

namespace Sys2Proof.Machine

/-- The fixed table DISPATCH: one entry in CORE-1 (R9). -/
def dispatchTable : List DispatchRow := [⟨Config.clsNav, Config.idPvt, .pvt⟩]

/-- `dispatch(cls, id)`: the decoder of the table's row, or none; any pair without a row is a deliberate no-op
(R220). -/
def dispatch (cls id : Byte) : Option DecoderId :=
  (dispatchTable.find? (fun row => decide (row.cls = cls ∧ row.id = id))).map DispatchRow.decoder

/-- ubx.decode after validation: FRAME_INFO is already committed in `s`, on every outcome from here (R221). -/
def decodeValidated (s : State) : State :=
  match dispatch (s.inByte 2) (s.inByte 3) with
  | none => reject .unknownMessage s
  | some .pvt =>
    match pvtDecode s with
    | .ok record => accept { s with nav := record, status := s.status.withNavValid }
    | .error code => reject code s

/-- ubx.decode (R221): validate, dispatch, decode. -/
def execUbxDecode (s : State) : Host.Outcome State Fault Refusal :=
  if validate s = .ok then .next (decodeValidated { s with frameInfo := headerOf s })
  else .next (reject (validate s) s)

end Sys2Proof.Machine
end

