-- ==== Sys2Proof/Machine/Dispatch.lean ====
section
/-! DEFINITION. The rule of each command (spec/30_encoding.md R97): one arm per row of the opcode table. -/

namespace Sys2Proof.Machine

def exec (i : Instr) (s : State) : Host.Outcome State Fault Refusal :=
  match i with
  | .nop => Sys2Proof.Machine.execNop s
  | .ckCompute => Sys2Proof.Machine.execCkCompute s
  | .ckVerify => Sys2Proof.Machine.execCkVerify s
  | .frameValidate => Sys2Proof.Machine.execFrameValidate s
  | .ubxDecode => Sys2Proof.Machine.execUbxDecode s
  | .extU8 off => Sys2Proof.Machine.execExtU8 off s
  | .extU16 off => Sys2Proof.Machine.execExtU16 off s
  | .extU32 off => Sys2Proof.Machine.execExtU32 off s
  | .extI8 off => Sys2Proof.Machine.execExtI8 off s
  | .extI16 off => Sys2Proof.Machine.execExtI16 off s
  | .extI32 off => Sys2Proof.Machine.execExtI32 off s
  | .cfgNmeaOff => Sys2Proof.Machine.execCfgNmeaOff s
  | .cfgRate rate => Sys2Proof.Machine.execCfgRate rate s

end Sys2Proof.Machine
end

