-- ==== Sys2Proof/Machine/HostPort.lean ====
section
/-! DEFINITION. The host port: the window's map, `MemRead` and `MemWrite` (spec/20_memory.md R60 to R67,
spec/10_state.md R22). -/

namespace Sys2Proof.Machine

/-- The access is misaligned, or reaches a register with a size other than 4 bytes: BusError (R63, R64, R66). -/
def isBusError (a : Nat) (n : AccessSize) : Bool :=
  decide (a % n.bytes ≠ 0 ∨ (a < 0x100 ∧ n ≠ .four))

/-- The register at the word-aligned window offset `o` (R22): CMD reads 0 (R23), and so does a reserved offset
(R62). -/
def State.regAt (s : State) (o : Nat) : Word :=
  if o = 0x004 then s.status.toWord
  else if o = 0x008 then s.inSize.setWidth 32
  else if o = 0x00C then s.ckStart.setWidth 32
  else if o = 0x010 then s.ckEnd.setWidth 32
  else if o = 0x014 then 0#16 ++ s.ckResult.b ++ s.ckResult.a
  else if o = 0x018 then s.extData
  else if o = 0x01C then s.outLen.setWidth 32
  else if o = 0x020 then s.keyRate
  else if o = 0x024 then s.params.nmeaKey
  else if o = 0x028 then s.frameInfo.len ++ s.frameInfo.id ++ s.frameInfo.cls
  else if 0x040 ≤ o ∧ o < 0x0C0 then s.nav.toList.getD ((o - 0x040) / 4) 0#32
  else 0#32

/-- `byteAt(o)` (R63): a register's byte, an OUT_BUF byte, an IN_BUF byte, or 0. -/
def State.byteAt (s : State) (o : Nat) : Byte :=
  if o < 0x100 then byteOf (s.regAt (o - o % 4)) (o % 4)
  else if o ≤ 0x110 then s.outByte (o - 0x100)
  else if 0x400 ≤ o ∧ o < 0x400 + s.params.nIn then s.inByte (o - 0x400)
  else 0#8

/-- `MemRead(addr, n)`: none is the response BusError (R63, R310). -/
def memRead (addr : Addr) (n : AccessSize) (s : State) : Option Word :=
  if isBusError addr.toNat n then none else some (composeLE s.byteAt addr.toNat n.bytes)

/-- `target(addr)` (R64), by the maps of R22 and R61. -/
def target (nIn a : Nat) : Target :=
  if a = 0x000 then .cmd
  else if a = 0x004 then .status
  else if a = 0x008 then .inSize
  else if a = 0x00C then .ckStart
  else if a = 0x010 then .ckEnd
  else if a = 0x020 then .keyRate
  else if 0x400 ≤ a ∧ a < 0x400 + nIn then .inBuf (a - 0x400)
  else .other

/-- The targets whose writes are dropped while BUSY = 1 (R44, R64). -/
def Target.droppedWhileBusy : Target → Bool
  | .cmd => true
  | .status => false
  | .inSize => true
  | .ckStart => true
  | .ckEnd => true
  | .keyRate => true
  | .inBuf _ => true
  | .other => false

/-- A host write that is not dropped (R64): bits 31:16 of the 16-bit registers are ignored. -/
def writeTarget (t : Target) (n : AccessSize) (v : Word) (s : State) : State :=
  match t with
  | .cmd => issue v s
  | .status => { s with status := s.status.hostWrite v }
  | .inSize => { s with inSize := v.setWidth 16 }
  | .ckStart => { s with ckStart := v.setWidth 16 }
  | .ckEnd => { s with ckEnd := v.setWidth 16 }
  | .keyRate => { s with keyRate := v }
  | .inBuf i => { s with inBuf := s.inBuf.writeLE i v n.bytes }
  | .other => s

/-- `MemWrite(addr, n, v)`: none is the response BusError, which changes no state (R64, R310). -/
def memWrite (addr : Addr) (n : AccessSize) (v : Word) (s : State) : Option State :=
  if isBusError addr.toNat n then none
  else if s.status.busy && (target s.params.nIn addr.toNat).droppedWhileBusy then
    some { s with status := s.status.overrun }
  else some (writeTarget (target s.params.nIn addr.toNat) n v s)

/-- The host's read as one step: the state is unchanged, and the port answers (R63, R67). -/
def hostRead (addr : Addr) (n : AccessSize) (s : State) : State :=
  match memRead addr n s with
  | some v => { s with port := .data v }
  | none => { s with port := .busError }

/-- The host's write as one step (R64, R310). -/
def hostWrite (addr : Addr) (n : AccessSize) (v : Word) (s : State) : State :=
  match memWrite addr n v s with
  | some t => { t with port := .written }
  | none => { s with port := .busError }

end Sys2Proof.Machine
end

