-- ==== Sys2Proof/Machine/Engine.lean ====
section
/-! DEFINITION. The engine's completion step (spec/10_state.md R46, spec/30_encoding.md R97), the reset event
(spec/70_reset_and_hazards.md R340), and the step of each agent. -/

namespace Sys2Proof.Machine

/-- The completion step for the pending word `w`: an illegal word is rejected before anything else (R97). -/
def completeWord (w : Word) (s : State) : Host.Outcome State Fault Refusal :=
  match decode w with
  | .instr i => exec i s
  | .illegal _ => .next (reject .illegalCmd s)

/-- The engine's turn: the completion step when PENDING holds a command (R46); otherwise it has no step to take and
the state stays. -/
def engineTurn (s : State) : Host.Outcome State Fault Refusal :=
  match s.pending with
  | some w => completeWord w s
  | none => .next s

/-- `rst`: every piece of state takes its reset value, a command in flight is discarded, and IN_BUF is drawn anew
(R47, R340, R341). What the agents do next stays as it was. -/
def resetEvent (s : State) : State :=
  { State.resetWith s.params (s.draws + 1) with schedule := s.schedule }

/-- One atomic step of one agent (R7, R69). -/
def perform (e : Event) (s : State) : Host.Outcome State Fault Refusal :=
  match e with
  | .read addr n => .next (hostRead addr n s)
  | .write addr n v => .next (hostWrite addr n v s)
  | .engine => engineTurn s
  | .reset => .next (resetEvent s)

/-- The machine's step: the next event of the schedule, and when none is left the engine's turn, so that a command in
flight is eventually completed (R46, R69, R313, R356). DESIGN CHOICE: log 1. -/
def nextStep (s : State) : Host.Outcome State Fault Refusal :=
  match s.schedule with
  | e :: rest => perform e { s with schedule := rest }
  | [] => engineTurn s

/-- The command word `w` accepted (R90) and the engine's turn next: what the host's write of `w` to CMD of an idle
core leaves, with the engine moving before anything else in the schedule. Log 5. -/
def placeCommand (w : Word) (s : State) : State :=
  { issue w s with schedule := .engine :: s.schedule }

end Sys2Proof.Machine
end

