-- ==== Sys2Proof/Machine/Step.lean ====
section
/-! DEFINITION. One step of the machine, and where the next command stands. -/

namespace Sys2Proof.Machine

/-- One atomic step of the machine (spec/00_scope.md R7, spec/20_memory.md R69). -/
def step (s : State) : Host.Outcome State Fault Refusal := nextStep s

/-- `s` with the command word of the low `nbits` bits of `w` accepted and to be completed by the very next step. -/
def State.withFetchWord (s : State) (nbits w : Nat) : State := placeCommand (tableWord nbits w) s

end Sys2Proof.Machine
end

