-- ==== Sys2Proof/Machine/HostProgram.lean ====
section
/-! DEFINITION. Host programs: the accesses a program line stands for (spec/30_encoding.md R99 to R101). A run is a
schedule made of these accesses in order, with the engine's turns anywhere among them (spec/60_exceptions.md R313). -/

namespace Sys2Proof.Machine

/-- The extractor command of a NAV-PVT field: the width and sign of row `k`, at frame offset 6 + payload offset
(R101). -/
def extPvtCommand (k : Fin 32) : Instr :=
  let off := Config.hdrLen + navTable[k].payloadOff
  match navTable[k].bytes, navTable[k].signed with
  | 1, false => .extU8 off
  | 1, true => .extI8 off
  | 2, false => .extU16 off
  | 2, true => .extI16 off
  | _, false => .extU32 off
  | _, true => .extI32 off

/-- A command line is one host write of its encoding to CMD (R99, R101). -/
def commandWrite (i : Instr) : Event := .write 0x000 .four (encode i)

/-- `sb 0x400+i, b` for each byte, in increasing order (R101). R101 gives no bound on `i`: an offset beyond the window
is taken modulo 4096. DESIGN CHOICE, unsafe there: log 15. -/
def byteWrites (i : Nat) : List Byte → List Event
  | [] => []
  | b :: rest => .write (BitVec.ofNat 12 (0x400 + i)) .one (b.setWidth 32) :: byteWrites (i + 1) rest

/-- The host accesses a program line expands to (R100, R101). -/
def HostLine.expand : HostLine → List Event
  | .sw off v => [.write off .four v]
  | .sh off v => [.write off .two (v.setWidth 32)]
  | .sb off v => [.write off .one (v.setWidth 32)]
  | .lw off => [.read off .four]
  | .lb off => [.read off .one]
  | .command i => [commandWrite i]
  | .ckRange first last => [.write 0x00C .four first, .write 0x010 .four last]
  | .inSize n => [.write 0x008 .four n]
  | .inBytes i bytes => byteWrites i bytes
  | .wait polls => List.replicate (polls + 1) (.read 0x004 .four)
  | .extPvt k => [commandWrite (extPvtCommand k)]
  | .keyRate k => [.write 0x020 .four k]

/-- The host accesses of a program, in order. -/
def expandProgram (lines : List HostLine) : List Event := lines.flatMap HostLine.expand

end Sys2Proof.Machine
end

