-- ==== Sys2Proof/Safety.lean ====
section
/-! DEFINITION. What claims about the machine are stated in: the invariants, what a step keeps, and the conditions of the
spec's rules in their own words. -/

namespace Sys2Proof.Machine

/-- The handshake (spec/10_state.md R25 to R29, R43): PENDING holds a command exactly while BUSY = 1, DONE excludes
BUSY, PASS comes with reason OK, and a completed command that did not pass has another reason. -/
structure State.Handshake (s : State) : Prop where
  busy_iff_pending : s.status.busy = s.pending.isSome
  done_not_busy : s.status.done = true → s.status.busy = false
  pass_ok : s.status.pass = true → s.status.reason = .ok
  fail_reason : s.status.done = true → s.status.pass = false → s.status.reason ≠ .ok

/-- IN_BUF is in canonical form and lies inside the capacity, which is a legal one (spec/00_scope.md R8,
spec/10_state.md R41). -/
structure State.Canonical (s : State) : Prop where
  params_ok : s.params.Ok
  rising : s.inBuf.wf = true
  inside : s.inBuf.within s.params.nIn = true

/-- Each NAV register reads as the extension of its field's width and sign, and the file is all zero until
NAV_VALID (spec/10_state.md R28, R40). -/
structure State.NavExtended (s : State) : Prop where
  extended : ∀ k : Fin 32, s.nav[k] =
    if navTable[k].signed then signExtendBytes s.nav[k] navTable[k].bytes
    else (s.nav[k].setWidth (8 * navTable[k].bytes)).setWidth 32
  zero_until_valid : s.status.navValid = false → s.nav = Vector.replicate 32 0#32

/-- OUT_BUF holds the reset zeros with OUT_LEN 0, or a whole built frame with OUT_LEN 17 (spec/10_state.md R36,
R42). -/
def State.OutFramed (s : State) : Prop :=
  (s.outLen = 0 ∧ s.outBuf = Vector.replicate 17 0#8) ∨
  (s.outLen = 17 ∧ ∃ key value, s.outBuf = build key value)

/-- The invariant of the machine. -/
structure State.Inv (s : State) : Prop where
  handshake : s.Handshake
  canonical : s.Canonical
  nav : s.NavExtended
  out : s.OutFramed

/-- The values of spec/10_state.md R47: STATUS and its fields, PENDING, the operand and result registers, KEY_RATE, the
NAV file and OUT_BUF. The bytes of IN_BUF are unspecified there. -/
structure State.ResetValues (s : State) : Prop where
  status : s.status = { busy := false, done := false, pass := false, navValid := false, reason := .ok, ovr := false }
  status_reads : memRead 0x004 .four s = some 0#32
  pending : s.pending = none
  inSize : s.inSize = 0#16
  ckStart : s.ckStart = 0#16
  ckEnd : s.ckEnd = 0#16
  ckResult : s.ckResult = { a := 0#8, b := 0#8 }
  extData : s.extData = 0#32
  outLen : s.outLen = 0#8
  frameInfo : s.frameInfo = { cls := 0#8, id := 0#8, len := 0#16 }
  keyRate : s.keyRate = s.params.rateKeyDefault
  keyNmea_reads : memRead 0x024 .four s = some s.params.nmeaKey
  nav : ∀ k : Fin 32, s.nav[k] = 0#32
  outBuf : ∀ k : Fin 17, s.outBuf[k] = 0#8

/-- The operands of a command are as before (spec/10_state.md R44): the parameters, IN_SIZE, CK_START, CK_END,
KEY_RATE and IN_BUF. -/
structure OperandsKept (s t : State) : Prop where
  params : t.params = s.params
  inSize : t.inSize = s.inSize
  ckStart : t.ckStart = s.ckStart
  ckEnd : t.ckEnd = s.ckEnd
  keyRate : t.keyRate = s.keyRate
  inBuf : t.inBuf = s.inBuf
  draws : t.draws = s.draws

/-- The model's own schedule and port response are as before. -/
def OutsideKept (s t : State) : Prop := t.schedule = s.schedule ∧ t.port = s.port

/-- NAV and NAV_VALID are as before. -/
def NavKept (s t : State) : Prop := t.nav = s.nav ∧ t.status.navValid = s.status.navValid

/-- OUT_BUF and OUT_LEN are as before. -/
def OutKept (s t : State) : Prop := t.outBuf = s.outBuf ∧ t.outLen = s.outLen

/-- Every byte of the host window reads as before, except those at the offsets `changed` holds of. -/
def WindowKeptExcept (changed : Nat → Prop) (s t : State) : Prop :=
  ∀ o, ¬ changed o → t.byteAt o = s.byteAt o

/-- A window offset of STATUS (0x004..0x007). -/
def inStatus (o : Nat) : Prop := 0x004 ≤ o ∧ o < 0x008

/-- The host accesses that are neither misaligned nor wrongly sized (spec/20_memory.md R66). -/
def LegalAccess (a : Nat) (n : AccessSize) : Prop := a % n.bytes = 0 ∧ (a < 0x100 → n = .four)

/-- The window offsets of CMD, IN_SIZE, CK_START, CK_END, KEY_RATE and IN_BUF (spec/10_state.md R44). -/
def operandOffset (nIn a : Nat) : Prop :=
  a = 0x000 ∨ a = 0x008 ∨ a = 0x00C ∨ a = 0x010 ∨ a = 0x020 ∨ (0x400 ≤ a ∧ a < 0x400 + nIn)

/-- A window offset of a reserved location (spec/20_memory.md R61, R62). -/
def reservedOffset (nIn o : Nat) : Prop :=
  (0x02C ≤ o ∧ o < 0x040) ∨ (0x0C0 ≤ o ∧ o < 0x100) ∨ (0x111 ≤ o ∧ o < 0x400) ∨ (0x400 + nIn ≤ o ∧ o < 0x1000)

/-- No step stops (spec/60_exceptions.md R301: "Nothing in this core is fatal"). -/
def Runs (s : State) : Prop := ∃ t, step s = .next t

end Sys2Proof.Machine
end

