-- ==== Sys2Proof/Certificates/Slice0/Obligations.lean ====
section
/-! DEFINITION. The statements for the provers. Each docstring names the rule of spec/ it formalises, or what it is
derived from. -/

open Sys2Proof Sys2Proof.Machine

/-! ### Encoding -/

/-- Every command survives encoding and decoding, with every operand the assembler admits. -/
def Obligations.DecodeAfterEncodeGivesTheCommand : Prop :=
  ∀ i : Instr, i.wf = true → decode (encode i) = .instr i

/-- Every legal word is the encoding of the one command it decodes to, whose operands are in range: no bit of a legal
word is ignored. -/
def Obligations.EncodeAfterDecodeGivesTheWord : Prop :=
  ∀ (w : Word) (i : Instr), decode w = .instr i → i.wf = true ∧ encode i = w

/-- R95: the six conditions, on the bits of the word; and what an illegal word changes. -/
def Obligations.IllegalWordsAreThoseOfTheSixConditions : Prop :=
  (∀ w : Word, (∃ why, decode w = .illegal why) ↔
    (8 ≤ (w &&& 0xF#32).toNat
      ∨ (w &&& 0xF#32 = 5#32 ∧ (w >>> 4) &&& 3#32 = 3#32)
      ∨ w.getLsbD 7 = true
      ∨ (w &&& 0xF#32 ≠ 5#32 ∧ (w >>> 4) &&& 7#32 ≠ 0#32)
      ∨ (w &&& 0xF#32 ≠ 7#32 ∧ (w >>> 8) &&& 0xFF#32 ≠ 0#32)
      ∨ (w &&& 0xF#32 ≠ 5#32 ∧ w >>> 16 ≠ 0#32)))
  ∧ ∀ (w : Word) (why : IllegalWord) (s : State), decode w = .illegal why → s.pending = some w →
      engineTurn s = .next { s with
        pending := none
        status := { busy := false, done := true, pass := false, navValid := s.status.navValid,
                    reason := .illegalCmd, ovr := s.status.ovr } }

/-- R96: a word is a row's mnemonic exactly when `w & mask = match`, with the operand bits of that row, and a word that
matches no row is illegal. -/
def Obligations.WordsDecodeByTheOpcodeTable : Prop :=
  ∀ w : Word,
    (decode w = .instr .nop ↔ w &&& 0xFFFFFFFF#32 = 0x00000000#32)
    ∧ (decode w = .instr .ckCompute ↔ w &&& 0xFFFFFFFF#32 = 0x00000001#32)
    ∧ (decode w = .instr .ckVerify ↔ w &&& 0xFFFFFFFF#32 = 0x00000002#32)
    ∧ (decode w = .instr .frameValidate ↔ w &&& 0xFFFFFFFF#32 = 0x00000003#32)
    ∧ (decode w = .instr .ubxDecode ↔ w &&& 0xFFFFFFFF#32 = 0x00000004#32)
    ∧ (∀ off, decode w = .instr (.extU8 off) ↔ w &&& 0x0000FFFF#32 = 0x00000005#32 ∧ off = (w >>> 16).toNat)
    ∧ (∀ off, decode w = .instr (.extU16 off) ↔ w &&& 0x0000FFFF#32 = 0x00000015#32 ∧ off = (w >>> 16).toNat)
    ∧ (∀ off, decode w = .instr (.extU32 off) ↔ w &&& 0x0000FFFF#32 = 0x00000025#32 ∧ off = (w >>> 16).toNat)
    ∧ (∀ off, decode w = .instr (.extI8 off) ↔ w &&& 0x0000FFFF#32 = 0x00000045#32 ∧ off = (w >>> 16).toNat)
    ∧ (∀ off, decode w = .instr (.extI16 off) ↔ w &&& 0x0000FFFF#32 = 0x00000055#32 ∧ off = (w >>> 16).toNat)
    ∧ (∀ off, decode w = .instr (.extI32 off) ↔ w &&& 0x0000FFFF#32 = 0x00000065#32 ∧ off = (w >>> 16).toNat)
    ∧ (decode w = .instr .cfgNmeaOff ↔ w &&& 0xFFFFFFFF#32 = 0x00000006#32)
    ∧ (∀ r, decode w = .instr (.cfgRate r) ↔ w &&& 0xFFFF00FF#32 = 0x00000007#32 ∧ r = (w >>> 8).toNat)
    ∧ ((∃ why, decode w = .illegal why) ↔
        w ∉ [0#32, 1#32, 2#32, 3#32, 4#32, 6#32]
        ∧ w &&& 0x0000FFFF#32 ∉ [0x05#32, 0x15#32, 0x25#32, 0x45#32, 0x55#32, 0x65#32]
        ∧ w &&& 0xFFFF00FF#32 ≠ 0x07#32)

/-- Words written out from the encoding summary and the vectors of spec/95_test_vectors.md. -/
def Obligations.PublishedWordsDecode : Prop :=
  decode 0x00000000#32 = .instr .nop
  ∧ decode 0x00000001#32 = .instr .ckCompute
  ∧ decode 0x00000002#32 = .instr .ckVerify
  ∧ decode 0x00000003#32 = .instr .frameValidate
  ∧ decode 0x00000004#32 = .instr .ubxDecode
  ∧ decode 0x00160005#32 = .instr (.extU8 22)
  ∧ decode 0x005E0015#32 = .instr (.extU16 94)
  ∧ decode 0x00060025#32 = .instr (.extU32 6)
  ∧ decode 0x00160045#32 = .instr (.extI8 22)
  ∧ decode 0xFFFF0055#32 = .instr (.extI16 65535)
  ∧ decode 0x001E0065#32 = .instr (.extI32 30)
  ∧ decode 0x00000006#32 = .instr .cfgNmeaOff
  ∧ decode 0x0000FF07#32 = .instr (.cfgRate 255)

/-! ### The step, the handshake and STATUS -/

/-- A step performs the next event of the schedule on the state without it (the schedule is the model's own field,
log 1). -/
def Obligations.StepPerformsTheNextEvent : Prop :=
  ∀ (s : State) (e : Event) (rest : List Event), s.schedule = e :: rest →
    step s = perform e { s with schedule := rest }

/-- A step that gives the engine its turn runs the decoded command. That a step with an empty schedule is the engine's
turn is the model's choice (log 1). -/
def Obligations.StepRunsTheDecodedCommand : Prop :=
  ∀ (s : State) (w : Word) (i : Instr), s.pending = some w → decode w = .instr i →
    (s.schedule = [] → step s = exec i s)
    ∧ ∀ rest, s.schedule = .engine :: rest → step s = exec i { s with schedule := rest }

/-- The command of a placed word is run by the very next step, on the state in which that word has been accepted
(log 5). -/
def Obligations.PlacedWordRunsNext : Prop :=
  ∀ (s : State) (nbits w : Nat) (i : Instr), decodeTableWord nbits w = some i →
    step (s.withFetchWord nbits w) = exec i { s with
      pending := some (BitVec.ofNat 32 (w % 2 ^ nbits))
      status := { s.status with busy := true, done := false } }

/-- R90: a CMD write is accepted when BUSY = 0, whatever the word, and dropped when BUSY = 1; legality is the completion
step's to decide. -/
def Obligations.CmdWriteIssuesACommand : Prop :=
  ∀ (s : State) (w : Word),
    (s.status.busy = false → memWrite 0x000 .four w s = some { s with
        pending := some w
        status := { busy := true, done := false, pass := s.status.pass, navValid := s.status.navValid,
                    reason := s.status.reason, ovr := s.status.ovr } })
    ∧ (s.status.busy = true → memWrite 0x000 .four w s = some { s with status := { s.status with ovr := true } })
    ∧ ∀ why t, decode w = .illegal why → s.status.busy = false → memWrite 0x000 .four w s = some t →
        ∃ u, engineTurn t = .next u ∧ u.status.pass = false ∧ u.status.reason = .illegalCmd

/-- R44: what is dropped while BUSY = 1 and what is not, and that the operands are frozen. -/
def Obligations.OperandsAreFrozenWhileBusy : Prop :=
  (∀ (s : State) (addr : Addr) (n : AccessSize) (v : Word), s.status.busy = true → LegalAccess addr.toNat n →
    (operandOffset s.params.nIn addr.toNat →
      memWrite addr n v s = some { s with status := { s.status with ovr := true } })
    ∧ (addr = 0x004 → memWrite addr n v s =
        some { s with status := { s.status with ovr := s.status.ovr && !v.getLsbD 8 } })
    ∧ memRead addr n s = some (composeLE s.byteAt addr.toNat n.bytes))
  ∧ ∀ (s t : State) (e : Event), s.status.busy = true → e ≠ .engine → e ≠ .reset → perform e s = .next t →
      OperandsKept s t ∧ t.pending = s.pending ∧ t.status.busy = true

/-- R30: what sets OVR, what clears it, and that nothing else changes it. -/
def Obligations.OvrIsStickyUntilWrittenOne : Prop :=
  ∀ (s t : State) (e : Event), e ≠ .reset → perform e s = .next t →
    (∀ addr n v, e = .write addr n v → LegalAccess addr.toNat n →
      (s.status.busy = true ∧ operandOffset s.params.nIn addr.toNat → t.status.ovr = true)
      ∧ (addr = 0x004 → t.status.ovr = (s.status.ovr && !v.getLsbD 8)))
    ∧ ((∀ addr n v, e = .write addr n v →
          ¬ LegalAccess addr.toNat n ∨ (addr ≠ 0x004 ∧ ¬ (s.status.busy = true ∧ operandOffset s.params.nIn addr.toNat))) →
        t.status.ovr = s.status.ovr)

/-- R24: the fields of STATUS as the host reads them, the codes of their reasons, and that a host write to STATUS is
never dropped and only clears OVR. -/
def Obligations.StatusWordHoldsTheFields : Prop :=
  (∀ s : State, ∃ v, memRead 0x004 .four s = some v
    ∧ v.getLsbD 0 = s.status.busy ∧ v.getLsbD 1 = s.status.done ∧ v.getLsbD 2 = s.status.pass
    ∧ v.getLsbD 3 = s.status.navValid ∧ v.extractLsb' 4 4 = s.status.reason.code
    ∧ v.getLsbD 8 = s.status.ovr ∧ v >>> 9 = 0#32)
  ∧ (∀ (s : State) (v : Word), memWrite 0x004 .four v s =
      some { s with status := { s.status with ovr := if v.getLsbD 8 then false else s.status.ovr } })
  ∧ Reason.ok.code = 0#4 ∧ Reason.tooShort.code = 1#4 ∧ Reason.badSync.code = 2#4 ∧ Reason.badChecksum.code = 3#4
  ∧ Reason.unknownMessage.code = 4#4 ∧ Reason.payloadLengthMismatch.code = 5#4 ∧ Reason.payloadTruncated.code = 6#4
  ∧ Reason.range.code = 7#4 ∧ Reason.illegalCmd.code = 8#4

/-- R303: the completion of a pending command always happens, and when it is not an accept it is a reject, which changes
only STATUS and PENDING, and FRAME_INFO for a ubx.decode whose validation passed. -/
def Obligations.CompletionAcceptsOrRejects : Prop :=
  ∀ (s : State) (w : Word), s.pending = some w → ∃ t, engineTurn s = .next t
    ∧ t.pending = none ∧ t.status.busy = false ∧ t.status.done = true ∧ t.status.ovr = s.status.ovr
    ∧ ((t.status.pass = true ∧ t.status.reason = .ok)
      ∨ (t.status.pass = false ∧ t.status.reason ≠ .ok
        ∧ t = { s with
            pending := none
            status := { s.status with busy := false, done := true, pass := false, reason := t.status.reason }
            frameInfo := t.frameInfo }
        ∧ (t.frameInfo ≠ s.frameInfo → decode w = .instr .ubxDecode ∧ validate s = .ok)))

/-- No step of the machine ends in a fault or a refusal: whatever the state and the schedule, there is a next state. That
no step stops is the model's deduction (log 8) from "Nothing in this core is fatal" (spec/60_exceptions.md R301); that an
idle core with an empty schedule also has a step, which leaves its state, is the model's choice (log 1). -/
def Obligations.EveryStepHasANextState : Prop := ∀ s : State, Runs s

/-- Once the schedule is used up the engine has completed whatever was accepted (the empty schedule giving the engine
the turn is the model's choice, log 1). The premise is the handshake invariant. -/
def Obligations.AcceptedCommandsComplete : Prop :=
  ∀ s : State, s.Handshake →
    ∃ t, Sys2Proof.core.run (s.schedule.length + 1) s = .next t ∧ t.pending = none ∧ t.status.busy = false

/-! ### The commands -/

/-- R260: nop completes, and changes nothing else. -/
def Obligations.NopOnlyCompletes : Prop :=
  encode .nop = 0x00000000#32 ∧ ∀ s : State, exec .nop s = .next { s with
    pending := none
    status := { busy := false, done := true, pass := true, navValid := s.status.navValid, reason := .ok,
                ovr := s.status.ovr } }

/-- R120: the loop of the accumulator, as a recurrence on its end. -/
def Obligations.FletcherRunsTheLoop : Prop :=
  ∀ (s : State) (i j : Nat),
    (j ≤ i → fletcher s i j = (0#8, 0#8))
    ∧ (i ≤ j → fletcher s i (j + 1) =
        ((fletcher s i j).1 + s.inByte j, (fletcher s i j).2 + ((fletcher s i j).1 + s.inByte j)))

/-- The closed form of the accumulator, over unbounded sums. -/
def Obligations.FletcherHasTheClosedForm : Prop :=
  ∀ (s : State) (i n : Nat),
    (fletcher s i (i + n)).1.toNat = ((List.range n).map (fun t => (s.inByte (i + t)).toNat)).sum % 256
    ∧ (fletcher s i (i + n)).2.toNat = ((List.range n).map (fun t => (n - t) * (s.inByte (i + t)).toNat)).sum % 256

/-- R121: ck.compute, its two rejections and its result for a range inside IN_SIZE and for an empty one. -/
def Obligations.CkComputeWritesThePair : Prop :=
  encode .ckCompute = 0x00000001#32 ∧ ∀ s : State,
    (s.params.nIn < s.inSize.toNat → exec .ckCompute s = .next (reject .range s))
    ∧ (s.ckStart.toNat < s.ckEnd.toNat → s.inSize.toNat < s.ckEnd.toNat →
        exec .ckCompute s = .next (reject .range s))
    ∧ (s.inSize.toNat ≤ s.params.nIn → s.ckEnd.toNat ≤ s.inSize.toNat →
        exec .ckCompute s = .next (accept { s with
          ckResult := { a := (fletcher s s.ckStart.toNat s.ckEnd.toNat).1
                        b := (fletcher s s.ckStart.toNat s.ckEnd.toNat).2 } }))
    ∧ (s.inSize.toNat ≤ s.params.nIn → s.ckEnd.toNat ≤ s.ckStart.toNat →
        exec .ckCompute s = .next (accept { s with ckResult := { a := 0#8, b := 0#8 } }))

/-- R122: ck.verify, its rejections in order and its acceptance; CK_RESULT is not written. -/
def Obligations.CkVerifyChecksTheTrailer : Prop :=
  encode .ckVerify = 0x00000002#32 ∧ ∀ s : State,
    (s.params.nIn < s.inSize.toNat → exec .ckVerify s = .next (reject .range s))
    ∧ (s.inSize.toNat ≤ s.params.nIn → s.inSize.toNat < 4 → exec .ckVerify s = .next (reject .tooShort s))
    ∧ (s.inSize.toNat ≤ s.params.nIn → 4 ≤ s.inSize.toNat →
        fletcher s 2 (s.inSize.toNat - 2) ≠ (s.inByte (s.inSize.toNat - 2), s.inByte (s.inSize.toNat - 1)) →
        exec .ckVerify s = .next (reject .badChecksum s))
    ∧ (s.inSize.toNat ≤ s.params.nIn → 4 ≤ s.inSize.toNat →
        fletcher s 2 (s.inSize.toNat - 2) = (s.inByte (s.inSize.toNat - 2), s.inByte (s.inSize.toNat - 1)) →
        exec .ckVerify s = .next (accept s))

/-- R140: which reason the validator reports, for every buffer. -/
def Obligations.ValidateReportsTheFirstFailingStep : Prop :=
  ∀ s : State,
    let size := s.inSize.toNat
    let sync := s.inByte 0 = 0xB5#8 ∧ s.inByte 1 = 0x62#8
    let trailer := (fletcher s 2 (size - 2)).1 = s.inByte (size - 2) ∧ (fletcher s 2 (size - 2)).2 = s.inByte (size - 1)
    (validate s = .range ↔ s.params.nIn < size)
    ∧ (validate s = .tooShort ↔ size ≤ s.params.nIn ∧ size < 8)
    ∧ (validate s = .badSync ↔ size ≤ s.params.nIn ∧ 8 ≤ size ∧ ¬ sync)
    ∧ (validate s = .badChecksum ↔ size ≤ s.params.nIn ∧ 8 ≤ size ∧ sync ∧ ¬ trailer)
    ∧ (validate s = .ok ↔ size ≤ s.params.nIn ∧ 8 ≤ size ∧ sync ∧ trailer)

/-- R141: frame.validate reports the header of a valid frame in FRAME_INFO, and otherwise rejects with the validator's
reason. -/
def Obligations.FrameValidateReportsTheHeader : Prop :=
  encode .frameValidate = 0x00000003#32 ∧ ∀ s : State,
    (validate s ≠ .ok → exec .frameValidate s = .next (reject (validate s) s))
    ∧ (validate s = .ok → exec .frameValidate s = .next (accept { s with
        frameInfo := { cls := s.inByte 2, id := s.inByte 3, len := s.inByte 5 ++ s.inByte 4 } }))

/-- R160: the little-endian field as a number, and its signed and unsigned extraction. -/
def Obligations.ExtractReadsLittleEndianIntegers : Prop :=
  ∀ (s : State) (i n : Nat), n ∈ [1, 2, 4] →
    let field := ((List.range n).map (fun k => (s.inByte (i + k)).toNat * 256 ^ k)).sum
    (le s i n).toNat = field
    ∧ (extract s i n false).toNat = field
    ∧ (extract s i n true).toInt = (if 2 ^ (8 * n - 1) ≤ field then (field : Int) - 2 ^ (8 * n) else field)
    ∧ extract s i 4 true = extract s i 4 false

/-- R162, R163, R164: the unsigned extractor commands. -/
def Obligations.UnsignedExtractorsWriteExtData : Prop :=
  ∀ off : Nat,
    (off < 65536 → encode (.extU8 off) = BitVec.ofNat 32 (off * 2 ^ 16 + 0x05)
      ∧ encode (.extU16 off) = BitVec.ofNat 32 (off * 2 ^ 16 + 0x15)
      ∧ encode (.extU32 off) = BitVec.ofNat 32 (off * 2 ^ 16 + 0x25))
    ∧ ∀ s : State,
      (s.inSize.toNat ≤ s.params.nIn → off + 1 ≤ s.inSize.toNat →
        exec (.extU8 off) s = .next (accept { s with extData := 0#24 ++ s.inByte off }))
      ∧ (s.inSize.toNat ≤ s.params.nIn → off + 2 ≤ s.inSize.toNat →
        exec (.extU16 off) s = .next (accept { s with extData := 0#16 ++ s.inByte (off + 1) ++ s.inByte off }))
      ∧ (s.inSize.toNat ≤ s.params.nIn → off + 4 ≤ s.inSize.toNat →
        exec (.extU32 off) s = .next (accept { s with
          extData := s.inByte (off + 3) ++ s.inByte (off + 2) ++ s.inByte (off + 1) ++ s.inByte off }))
      ∧ (s.params.nIn < s.inSize.toNat ∨ s.inSize.toNat < off + 1 → exec (.extU8 off) s = .next (reject .range s))
      ∧ (s.params.nIn < s.inSize.toNat ∨ s.inSize.toNat < off + 2 → exec (.extU16 off) s = .next (reject .range s))
      ∧ (s.params.nIn < s.inSize.toNat ∨ s.inSize.toNat < off + 4 → exec (.extU32 off) s = .next (reject .range s))

/-- R165, R166, R167: the signed extractor commands. -/
def Obligations.SignedExtractorsWriteExtData : Prop :=
  ∀ off : Nat,
    (off < 65536 → encode (.extI8 off) = BitVec.ofNat 32 (off * 2 ^ 16 + 0x45)
      ∧ encode (.extI16 off) = BitVec.ofNat 32 (off * 2 ^ 16 + 0x55)
      ∧ encode (.extI32 off) = BitVec.ofNat 32 (off * 2 ^ 16 + 0x65))
    ∧ ∀ s : State,
      (s.inSize.toNat ≤ s.params.nIn → off + 1 ≤ s.inSize.toNat →
        exec (.extI8 off) s = .next (accept { s with extData := (s.inByte off).signExtend 32 }))
      ∧ (s.inSize.toNat ≤ s.params.nIn → off + 2 ≤ s.inSize.toNat →
        exec (.extI16 off) s = .next (accept { s with
          extData := (s.inByte (off + 1) ++ s.inByte off).signExtend 32 }))
      ∧ (s.inSize.toNat ≤ s.params.nIn → off + 4 ≤ s.inSize.toNat →
        exec (.extI32 off) s = .next (accept { s with
          extData := s.inByte (off + 3) ++ s.inByte (off + 2) ++ s.inByte (off + 1) ++ s.inByte off }))
      ∧ (s.params.nIn < s.inSize.toNat ∨ s.inSize.toNat < off + 1 → exec (.extI8 off) s = .next (reject .range s))
      ∧ (s.params.nIn < s.inSize.toNat ∨ s.inSize.toNat < off + 2 → exec (.extI16 off) s = .next (reject .range s))
      ∧ (s.params.nIn < s.inSize.toNat ∨ s.inSize.toNat < off + 4 → exec (.extI32 off) s = .next (reject .range s))

/-- R180, R184, R221: ubx.decode, its rejections in order, and the 32 fields it commits, each at the frame offset, with
the width and sign of the table of R180. -/
def Obligations.UbxDecodeCommitsTheRecord : Prop :=
  encode .ubxDecode = 0x00000004#32 ∧ ∀ s : State,
    let info : FrameInfo := { cls := s.inByte 2, id := s.inByte 3, len := s.inByte 5 ++ s.inByte 4 }
    let len := (s.inByte 4).toNat + 256 * (s.inByte 5).toNat
    let isPvt := s.inByte 2 = 0x01#8 ∧ s.inByte 3 = 0x07#8
    (validate s ≠ .ok → exec .ubxDecode s = .next (reject (validate s) s))
    ∧ (validate s = .ok → ¬ isPvt →
        exec .ubxDecode s = .next (reject .unknownMessage { s with frameInfo := info }))
    ∧ (validate s = .ok → isPvt → len ≠ 92 →
        exec .ubxDecode s = .next (reject .payloadLengthMismatch { s with frameInfo := info }))
    ∧ (validate s = .ok → isPvt → len = 92 → s.inSize.toNat < 100 →
        exec .ubxDecode s = .next (reject .payloadTruncated { s with frameInfo := info }))
    ∧ (validate s = .ok → isPvt → len = 92 → 100 ≤ s.inSize.toNat →
        ∃ record : NavFile,
          exec .ubxDecode s = .next (accept { s with
            frameInfo := info, nav := record, status := { s.status with navValid := true } })
          ∧ record.toList =
            [extract s 6 4 false, extract s 10 2 false, extract s 12 1 false, extract s 13 1 false,
             extract s 14 1 false, extract s 15 1 false, extract s 16 1 false, extract s 17 1 false,
             extract s 18 4 false, extract s 22 4 true, extract s 26 1 false, extract s 27 1 false,
             extract s 28 1 false, extract s 29 1 false, extract s 30 4 true, extract s 34 4 true,
             extract s 38 4 true, extract s 42 4 true, extract s 46 4 false, extract s 50 4 false,
             extract s 54 4 true, extract s 58 4 true, extract s 62 4 true, extract s 66 4 true,
             extract s 70 4 true, extract s 74 4 false, extract s 78 4 false, extract s 82 2 false,
             extract s 84 2 false, extract s 90 4 true, extract s 94 2 true, extract s 96 2 false])

/-- R241: cfg.nmea_off always completes, with the frame of KEY_NMEA and the value 0. -/
def Obligations.CfgNmeaOffBuildsTheDisableFrame : Prop :=
  encode .cfgNmeaOff = 0x00000006#32 ∧ ∀ s : State, ∃ f : Frame17,
    let key := s.params.nmeaKey
    let covered : List Byte := [0x06, 0x8A, 0x09, 0x00, 0x00, 0x01, 0x00, 0x00,
      key.setWidth 8, (key >>> 8).setWidth 8, (key >>> 16).setWidth 8, (key >>> 24).setWidth 8, 0x00]
    exec .cfgNmeaOff s = .next (accept { s with outBuf := f, outLen := 17#8 })
    ∧ f.toList = [0xB5#8, 0x62#8] ++ covered ++ [(fletcherOf covered).1, (fletcherOf covered).2]

/-- R242: cfg.rate always completes, with the frame of KEY_RATE and the rate byte, whatever the byte. -/
def Obligations.CfgRateBuildsTheRateFrame : Prop :=
  ∀ r : Nat, r < 256 → encode (.cfgRate r) = BitVec.ofNat 32 (r * 2 ^ 8 + 0x07) ∧ ∀ s : State, ∃ f : Frame17,
    let key := s.keyRate
    let covered : List Byte := [0x06, 0x8A, 0x09, 0x00, 0x00, 0x01, 0x00, 0x00,
      key.setWidth 8, (key >>> 8).setWidth 8, (key >>> 16).setWidth 8, (key >>> 24).setWidth 8, BitVec.ofNat 8 r]
    exec (.cfgRate r) s = .next (accept { s with outBuf := f, outLen := 17#8 })
    ∧ f.toList = [0xB5#8, 0x62#8] ++ covered ++ [(fletcherOf covered).1, (fletcherOf covered).2]

/-! ### Frames: what each shape of command leaves unchanged -/

/-- nop and ck.verify change only PENDING and BUSY, DONE, PASS and REASON of STATUS. -/
def Obligations.StatusOnlyCommandsKeepTheRest : Prop :=
  ∀ (i : Instr) (s t : State), i = .nop ∨ i = .ckVerify → exec i s = .next t →
    OperandsKept s t ∧ OutsideKept s t ∧ NavKept s t ∧ OutKept s t
    ∧ t.ckResult = s.ckResult ∧ t.extData = s.extData ∧ t.frameInfo = s.frameInfo ∧ t.status.ovr = s.status.ovr
    ∧ WindowKeptExcept inStatus s t

/-- ck.compute changes CK_RESULT (0x014) besides. -/
def Obligations.CkComputeKeepsTheRest : Prop :=
  ∀ s t : State, exec .ckCompute s = .next t →
    OperandsKept s t ∧ OutsideKept s t ∧ NavKept s t ∧ OutKept s t
    ∧ t.extData = s.extData ∧ t.frameInfo = s.frameInfo ∧ t.status.ovr = s.status.ovr
    ∧ (t.status.pass = false → t.ckResult = s.ckResult)
    ∧ WindowKeptExcept (fun o => inStatus o ∨ (0x014 ≤ o ∧ o < 0x018)) s t

/-- Every ext.* changes EXT_DATA (0x018) besides. -/
def Obligations.ExtractorsKeepTheRest : Prop :=
  ∀ (i : Instr) (off : Nat) (s t : State),
    i ∈ [.extU8 off, .extU16 off, .extU32 off, .extI8 off, .extI16 off, .extI32 off] → exec i s = .next t →
    OperandsKept s t ∧ OutsideKept s t ∧ NavKept s t ∧ OutKept s t
    ∧ t.ckResult = s.ckResult ∧ t.frameInfo = s.frameInfo ∧ t.status.ovr = s.status.ovr
    ∧ (t.status.pass = false → t.extData = s.extData)
    ∧ WindowKeptExcept (fun o => inStatus o ∨ (0x018 ≤ o ∧ o < 0x01C)) s t

/-- frame.validate changes FRAME_INFO (0x028) besides, even when the frame is a NAV-PVT frame. -/
def Obligations.FrameValidateKeepsTheRest : Prop :=
  ∀ s t : State, exec .frameValidate s = .next t →
    OperandsKept s t ∧ OutsideKept s t ∧ NavKept s t ∧ OutKept s t
    ∧ t.ckResult = s.ckResult ∧ t.extData = s.extData ∧ t.status.ovr = s.status.ovr
    ∧ (t.status.pass = false → t.frameInfo = s.frameInfo)
    ∧ WindowKeptExcept (fun o => inStatus o ∨ (0x028 ≤ o ∧ o < 0x02C)) s t

/-- ubx.decode changes FRAME_INFO, and NAV and NAV_VALID when it is accepted, besides. -/
def Obligations.UbxDecodeKeepsTheRest : Prop :=
  ∀ s t : State, exec .ubxDecode s = .next t →
    OperandsKept s t ∧ OutsideKept s t ∧ OutKept s t
    ∧ t.ckResult = s.ckResult ∧ t.extData = s.extData ∧ t.status.ovr = s.status.ovr
    ∧ (t.status.pass = false → NavKept s t)
    ∧ (validate s ≠ .ok → t.frameInfo = s.frameInfo)
    ∧ WindowKeptExcept (fun o => inStatus o ∨ (0x028 ≤ o ∧ o < 0x02C) ∨ (0x040 ≤ o ∧ o < 0x0C0)) s t

/-- cfg.nmea_off and cfg.rate change OUT_BUF (0x100..0x110) and OUT_LEN (0x01C) besides. -/
def Obligations.ConfigBuildersKeepTheRest : Prop :=
  ∀ (i : Instr) (s t : State), i = .cfgNmeaOff ∨ (∃ r, i = .cfgRate r) → exec i s = .next t →
    OperandsKept s t ∧ OutsideKept s t ∧ NavKept s t
    ∧ t.ckResult = s.ckResult ∧ t.extData = s.extData ∧ t.frameInfo = s.frameInfo ∧ t.status.ovr = s.status.ovr
    ∧ WindowKeptExcept (fun o => inStatus o ∨ (0x01C ≤ o ∧ o < 0x020) ∨ (0x100 ≤ o ∧ o ≤ 0x110)) s t

/-! ### The host port -/

/-- What a host read answers, byte by byte (spec/20_memory.md, MemRead), where each byte of the window comes from, and
that the host's read step answers just that and changes nothing else. That the step's answer stands in the field port is
the model's choice (log 4). -/
def Obligations.HostReadComposesTheBytes : Prop :=
  (∀ (s : State) (addr : Addr) (n : AccessSize),
    (¬ LegalAccess addr.toNat n →
      memRead addr n s = none ∧ perform (.read addr n) s = .next { s with port := .busError })
    ∧ (LegalAccess addr.toNat n → ∃ v, memRead addr n s = some v
      ∧ (∀ k, k < n.bytes → (v >>> (8 * k)).setWidth 8 = s.byteAt (addr.toNat + k))
      ∧ v.toNat < 2 ^ (8 * n.bytes)
      ∧ perform (.read addr n) s = .next { s with port := .data v }))
  ∧ ∀ (s : State) (o : Nat),
    (o < 0x100 → s.byteAt o = ((s.regAt (o - o % 4)) >>> (8 * (o % 4))).setWidth 8)
    ∧ (∀ i : Fin 17, s.byteAt (0x100 + i) = s.outBuf[i])
    ∧ (∀ i, i < s.params.nIn → s.byteAt (0x400 + i) = s.inByte i)
    ∧ (0x111 ≤ o → o < 0x400 → s.byteAt o = 0#8) ∧ (0x400 + s.params.nIn ≤ o → s.byteAt o = 0#8)

/-- The register map as the host reads it: one 32-bit register per offset, with the reserved bits 0. -/
def Obligations.RegistersReadAtTheirOffsets : Prop :=
  ∀ s : State,
    memRead 0x000 .four s = some 0#32
    ∧ memRead 0x008 .four s = some (0#16 ++ s.inSize)
    ∧ memRead 0x00C .four s = some (0#16 ++ s.ckStart)
    ∧ memRead 0x010 .four s = some (0#16 ++ s.ckEnd)
    ∧ memRead 0x014 .four s = some (0#16 ++ s.ckResult.b ++ s.ckResult.a)
    ∧ memRead 0x018 .four s = some s.extData
    ∧ memRead 0x01C .four s = some (0#24 ++ s.outLen)
    ∧ memRead 0x020 .four s = some s.keyRate
    ∧ memRead 0x024 .four s = some s.params.nmeaKey
    ∧ memRead 0x028 .four s = some (s.frameInfo.len ++ s.frameInfo.id ++ s.frameInfo.cls)
    ∧ ∀ k : Fin 32, memRead (BitVec.ofNat 12 (0x040 + 4 * k)) .four s = some s.nav[k]

/-- R62: reserved locations and bits read 0, and a write to one has no effect and does not set OVR. -/
def Obligations.ReservedLocationsReadZero : Prop :=
  ∀ s : State, s.params.Ok →
    (∀ o, reservedOffset s.params.nIn o → s.byteAt o = 0#8)
    ∧ (∀ (addr : Addr) (n : AccessSize) (v : Word), LegalAccess addr.toNat n →
        reservedOffset s.params.nIn addr.toNat → memWrite addr n v s = some s ∧ memRead addr n s = some 0#32)
    ∧ (∀ o, o ∈ [0x00A, 0x00B, 0x00E, 0x00F, 0x012, 0x013, 0x016, 0x017, 0x01D, 0x01E, 0x01F, 0x006, 0x007] →
        s.byteAt o = 0#8)
    ∧ s.byteAt 0x005 &&& 0xFE#8 = 0#8
    ∧ (∀ v : Word, s.status.busy = false →
        memWrite 0x008 .four v s = memWrite 0x008 .four (v &&& 0xFFFF#32) s
        ∧ memWrite 0x00C .four v s = memWrite 0x00C .four (v &&& 0xFFFF#32) s
        ∧ memWrite 0x010 .four v s = memWrite 0x010 .four (v &&& 0xFFFF#32) s)
    ∧ ∀ v : Word, memWrite 0x004 .four v s = memWrite 0x004 .four (v &&& 0x100#32) s

/-- The operand registers as the host writes them, and the locations whose writes are ignored. -/
def Obligations.HostWritesReachTheirRegisters : Prop :=
  ∀ (s : State) (v : Word),
    (s.status.busy = false →
      memWrite 0x008 .four v s = some { s with inSize := v.setWidth 16 }
      ∧ memWrite 0x00C .four v s = some { s with ckStart := v.setWidth 16 }
      ∧ memWrite 0x010 .four v s = some { s with ckEnd := v.setWidth 16 }
      ∧ memWrite 0x020 .four v s = some { s with keyRate := v })
    ∧ (∀ (addr : Addr) (n : AccessSize), LegalAccess addr.toNat n → addr ≠ 0x004 →
        ¬ operandOffset s.params.nIn addr.toNat → memWrite addr n v s = some s)

/-- Every byte a host write stores in IN_BUF reads back, little-endian, and every other byte of the window is as
before. -/
def Obligations.InBufWritesReadBack : Prop :=
  ∀ (s : State) (addr : Addr) (n : AccessSize) (v : Word), s.params.Ok → s.status.busy = false →
    LegalAccess addr.toNat n → 0x400 ≤ addr.toNat → addr.toNat < 0x400 + s.params.nIn →
    ∃ t, memWrite addr n v s = some t
      ∧ t = { s with inBuf := t.inBuf }
      ∧ ∀ o, t.byteAt o =
          if addr.toNat ≤ o ∧ o < addr.toNat + n.bytes then (v >>> (8 * (o - addr.toNat))).setWidth 8 else s.byteAt o

/-- Which accesses are BusErrors (spec/60_exceptions.md, host-port errors), that they change nothing of the core, and that
any other access's step is its MemRead or MemWrite. What the answers are (data, written, busError) and that they stand in
the field port is the model's choice (log 4). -/
def Obligations.BusErrorChangesNothing : Prop :=
  ∀ (s : State) (addr : Addr) (n : AccessSize) (v : Word),
    (addr.toNat % n.bytes ≠ 0 ∨ (addr.toNat < 0x100 ∧ n ≠ .four) →
      memRead addr n s = none ∧ memWrite addr n v s = none
      ∧ perform (.read addr n) s = .next { s with port := .busError }
      ∧ perform (.write addr n v) s = .next { s with port := .busError })
    ∧ (addr.toNat % n.bytes = 0 → (0x100 ≤ addr.toNat ∨ n = .four) →
      (∃ d, memRead addr n s = some d ∧ perform (.read addr n) s = .next { s with port := .data d })
      ∧ ∃ u, memWrite addr n v s = some u ∧ perform (.write addr n v) s = .next { u with port := .written })

/-- One 32-bit write to IN_BUF leaves what four byte writes in increasing order leave, the answer in the field port among
it, which is the model's choice (log 4). -/
def Obligations.WordWriteIsFourByteWrites : Prop :=
  ∀ (s : State) (i : Nat) (b0 b1 b2 b3 : Byte), s.params.Ok → s.status.busy = false → i % 4 = 0 →
    i < s.params.nIn →
    hostWrite (BitVec.ofNat 12 (0x400 + i)) .four (b3 ++ b2 ++ b1 ++ b0) s =
      hostWrite (BitVec.ofNat 12 (0x403 + i)) .one (b3.setWidth 32)
        (hostWrite (BitVec.ofNat 12 (0x402 + i)) .one (b2.setWidth 32)
          (hostWrite (BitVec.ofNat 12 (0x401 + i)) .one (b1.setWidth 32)
            (hostWrite (BitVec.ofNat 12 (0x400 + i)) .one (b0.setWidth 32) s)))

/-- R38: KEY_NMEA is the constant NMEA_KEY, which no step changes. -/
def Obligations.KeyNmeaIsConstant : Prop :=
  (∀ s : State, memRead 0x024 .four s = some s.params.nmeaKey)
  ∧ (∀ (s : State) (v : Word), memWrite 0x024 .four v s = some s)
  ∧ (∀ s t : State, step s = .next t → t.params = s.params)
  ∧ ∀ s t : State, exec .cfgNmeaOff s = .next t →
      [t.outBuf[13], t.outBuf[12], t.outBuf[11], t.outBuf[10]] =
        [s.params.nmeaKey.extractLsb' 24 8, s.params.nmeaKey.extractLsb' 16 8, s.params.nmeaKey.extractLsb' 8 8,
         s.params.nmeaKey.extractLsb' 0 8]

/-! ### Reset -/

/-- R47: every piece of state after reset, from any state, for any parameters; and so in the machine's own first
state. -/
def Obligations.ResetSetsEveryRegister : Prop :=
  (∀ s : State, ∃ t, perform .reset s = .next t ∧ t.ResetValues ∧ t.params = s.params)
  ∧ State.reset.ResetValues

/-! ### Invariants and whole-machine rules -/

/-- The handshake of R25, R26 and R43 is kept by every step. -/
def Obligations.StepKeepsTheHandshake : Prop :=
  ∀ s t : State, s.Handshake → step s = .next t → t.Handshake

/-- IN_BUF stays in canonical form inside a legal capacity. -/
def Obligations.StepKeepsTheMemoryCanonical : Prop :=
  ∀ s t : State, s.Canonical → step s = .next t → t.Canonical

/-- Every NAV register stays the extension of its field, and zero until NAV_VALID. -/
def Obligations.StepKeepsNavExtended : Prop :=
  ∀ s t : State, s.NavExtended → step s = .next t → t.NavExtended

/-- OUT_BUF stays either the reset zeros or one whole built frame, as OUT_LEN says. -/
def Obligations.StepKeepsOutFramed : Prop :=
  ∀ s t : State, s.OutFramed → step s = .next t → t.OutFramed

/-- The invariants hold after reset, for every legal value of the parameters and every draw. -/
def Obligations.ResetMeetsTheInvariant : Prop :=
  (∀ (p : Config.Params) (n : Nat), p.Ok → (State.resetWith p n).Inv) ∧ State.reset.Inv

/-- The NAV file is overwritten only by an accepted ubx.decode, or by reset. -/
def Obligations.NavChangesOnlyByAcceptedDecode : Prop :=
  ∀ (s t : State) (e : Event), perform e s = .next t → t.nav ≠ s.nav →
    e = .reset ∨ (e = .engine ∧ (∃ w, s.pending = some w ∧ decode w = .instr .ubxDecode)
      ∧ t.status.pass = true ∧ t.status.navValid = true)

/-- R28: when NAV_VALID is set, and that nothing but reset clears it. -/
def Obligations.NavValidIsSetByAcceptedDecode : Prop :=
  State.reset.status.navValid = false
  ∧ ∀ (s t : State) (e : Event), perform e s = .next t →
    (e = .reset → t.status.navValid = false)
    ∧ (e = .engine → ∀ w, s.pending = some w → decode w = .instr .ubxDecode → t.status.pass = true →
        t.status.navValid = true)
    ∧ (s.status.navValid = true → e ≠ .reset → t.status.navValid = true)
    ∧ (s.status.navValid = false → t.status.navValid = true →
        e = .engine ∧ (∃ w, s.pending = some w ∧ decode w = .instr .ubxDecode) ∧ t.status.pass = true)

/-- Each result register has one kind of writer: the accepted commands of its own family, and reset. -/
def Obligations.ResultRegistersHaveOneWriter : Prop :=
  ∀ (s t : State) (e : Event), perform e s = .next t → e ≠ .reset →
    (t.ckResult ≠ s.ckResult → e = .engine ∧ ∃ w, s.pending = some w ∧ decode w = .instr .ckCompute
      ∧ t.status.pass = true)
    ∧ (t.extData ≠ s.extData → e = .engine ∧ ∃ w off, s.pending = some w
      ∧ decode w ∈ [.instr (.extU8 off), .instr (.extU16 off), .instr (.extU32 off), .instr (.extI8 off),
          .instr (.extI16 off), .instr (.extI32 off)] ∧ t.status.pass = true)
    ∧ (t.frameInfo ≠ s.frameInfo → e = .engine ∧ ∃ w, s.pending = some w
      ∧ (decode w = .instr .frameValidate ∨ decode w = .instr .ubxDecode) ∧ validate s = .ok)
    ∧ (¬ OutKept s t → e = .engine ∧ ∃ w, s.pending = some w
      ∧ (decode w = .instr .cfgNmeaOff ∨ ∃ r, decode w = .instr (.cfgRate r)) ∧ t.status.pass = true)

/-- The operands and IN_BUF are written only by the host, while BUSY = 0, each at its own offset, and by reset: the
engine never writes them. -/
def Obligations.OperandsAreWrittenOnlyByTheHost : Prop :=
  ∀ (s t : State) (e : Event), perform e s = .next t → e ≠ .reset →
    (¬ OperandsKept s t → s.status.busy = false ∧ ∃ addr n v, e = .write addr n v ∧ LegalAccess addr.toNat n
      ∧ (t.inSize ≠ s.inSize → addr = 0x008) ∧ (t.ckStart ≠ s.ckStart → addr = 0x00C)
      ∧ (t.ckEnd ≠ s.ckEnd → addr = 0x010) ∧ (t.keyRate ≠ s.keyRate → addr = 0x020)
      ∧ (t.inBuf ≠ s.inBuf → 0x400 ≤ addr.toNat ∧ addr.toNat < 0x400 + s.params.nIn)
      ∧ t.params = s.params ∧ t.draws = s.draws)

/-- R73: no command's result depends on a byte of IN_BUF at or beyond IN_SIZE, nor on any byte when IN_SIZE is beyond
the capacity, and no command writes IN_BUF. -/
def Obligations.BytesBeyondInSizeNeverMatter : Prop :=
  ∀ (i : Instr) (s : State) (m : Memory) (d : Nat),
    (s.inSize.toNat ≤ s.params.nIn → ∀ k, k < s.inSize.toNat →
      ({ s with inBuf := m, draws := d } : State).inByte k = s.inByte k) →
    ∃ t, exec i s = .next t ∧ t.inBuf = s.inBuf
      ∧ exec i { s with inBuf := m, draws := d } = .next { t with inBuf := m, draws := d }

/-- A host write of IN_SIZE and a completion in either order: dropped with OVR when the write comes first, taken when the
completion does, and the command's own result is the same up to OVR. That both writes, the dropped one too, are answered as
written, in the field port, is the model's choice (log 4). -/
def Obligations.WriteAndCompletionInEitherOrder : Prop :=
  ∀ (s : State) (w v : Word), s.Handshake → s.pending = some w →
    ∃ t, engineTurn s = .next t
      ∧ engineTurn (hostWrite 0x008 .four v s) =
          .next { t with status := { t.status with ovr := true }, port := .written }
      ∧ hostWrite 0x008 .four v t = { t with inSize := v.setWidth 16, port := .written }

/-! ### Laws of the codec -/

/-- Changing one byte of the range changes ck_a by the byte's own change. -/
def Obligations.OneByteAlwaysChangesCkA : Prop :=
  ∀ (s : State) (i j k : Nat) (b : Byte), i ≤ k → k < j →
    (fletcher { s with inBuf := s.inBuf.write k b } i j).1 = (fletcher s i j).1 + (b - s.inByte k)
    ∧ (b ≠ s.inByte k → (fletcher { s with inBuf := s.inBuf.write k b } i j).1 ≠ (fletcher s i j).1)

/-- The byte-wise comparison of the trailer is the packed little-endian 16-bit one. -/
def Obligations.PackedComparisonIsByteWise : Prop :=
  ∀ s : State,
    let size := s.inSize.toNat
    let ck := fletcher s 2 (size - 2)
    checksumMatches s = true ↔
      (ck.2 ++ ck.1 : Half) = (s.inByte (size - 2)).setWidth 16 ||| ((s.inByte (size - 1)).setWidth 16 <<< 8)

/-- A built frame, copied to the input buffer, passes ck.verify and frame.validate, and is unknown to ubx.decode. -/
def Obligations.BuiltFramesRoundTrip : Prop :=
  ∀ (i : Instr) (s u v : State), i = .cfgNmeaOff ∨ (∃ r, i = .cfgRate r) → exec i s = .next u →
    (∀ k : Fin 17, v.inByte k = u.outBuf[k]) → v.inSize = 17#16 → v.params.Ok →
    exec .ckVerify v = .next (accept v)
    ∧ exec .frameValidate v = .next (accept { v with frameInfo := { cls := 0x06#8, id := 0x8A#8, len := 0x0009#16 } })
    ∧ exec .ubxDecode v = .next (reject .unknownMessage
        { v with frameInfo := { cls := 0x06#8, id := 0x8A#8, len := 0x0009#16 } })

/-- After an accepted ubx.decode, the extractor command of any field of the record gives that NAV register. -/
def Obligations.ExtPvtGivesTheNavRegister : Prop :=
  ∀ (s t : State) (k : Fin 32), exec .ubxDecode s = .next t → t.status.pass = true →
    ∃ u, exec (extPvtCommand k) t = .next u ∧ u.status.pass = true ∧ u.extData = t.nav[k] ∧ u.nav = t.nav
end

