-- ==== Sys2Proof/Laws/Memory.lean ====
section
/-! SUPPORT. The laws of memory: read after write, and that every operation keeps the canonical form. -/

namespace Sys2Proof.Machine

@[simp] theorem Memory.read_nil (a : Nat) : Memory.read [] a = none := rfl

theorem Memory.read_cons (k : Nat) (b : Byte) (m : Memory) (a : Nat) :
    Memory.read ((k, b) :: m) a = if k = a then some b else Memory.read m a := rfl

/-- Reading after a write: the written byte at the address, and the byte as before anywhere else. -/
theorem Memory.read_write (m : Memory) (a : Nat) (b : Byte) (x : Nat) :
    (m.write a b).read x = if a = x then some b else m.read x := by
  induction m with
  | nil => rfl
  | cons c m ih =>
    obtain ⟨k, c⟩ := c
    unfold Memory.write
    split
    · simp [Memory.read_cons]
    · split
      · subst a; simp only [Memory.read_cons]; split <;> rfl
      · simp only [Memory.read_cons, ih]; grind

@[simp] theorem Memory.wf_nil : Memory.wf [] = true := rfl

theorem Memory.wf_cons (k : Nat) (b : Byte) (m : Memory) :
    Memory.wf ((k, b) :: m) = true ↔ (∀ c ∈ m, k < c.1) ∧ m.wf = true := by
  simp [Memory.wf]

/-- Every listed address of a write's result is the written one or was listed before. -/
theorem Memory.mem_write (m : Memory) (a : Nat) (b : Byte) (c : Host.Cell) (h : c ∈ m.write a b) :
    c.1 = a ∨ c ∈ m := by
  induction m with
  | nil => simp [Memory.write] at h; simp [h]
  | cons d m ih => unfold Memory.write at h; grind

/-- A write keeps the addresses strictly rising. -/
theorem Memory.write_wf (m : Memory) (a : Nat) (b : Byte) (h : m.wf = true) : (m.write a b).wf = true := by
  induction m with
  | nil => rfl
  | cons c m ih =>
    obtain ⟨k, c⟩ := c
    have hk := (Memory.wf_cons k c m).mp h
    unfold Memory.write
    split
    · rename_i hlt
      refine (Memory.wf_cons a b _).mpr ⟨fun d hd => ?_, h⟩
      rcases List.mem_cons.mp hd with rfl | hd
      · exact hlt
      · exact Nat.lt_trans hlt (hk.1 d hd)
    · split
      · subst a; exact (Memory.wf_cons k b m).mpr hk
      · refine (Memory.wf_cons k c _).mpr ⟨fun d hd => ?_, ih hk.2⟩
        rcases Memory.mem_write m a b d hd with hd | hd
        · omega
        · exact hk.1 d hd

/-- A write inside the first `n` addresses keeps every address below `n`. -/
theorem Memory.write_within (n : Nat) (m : Memory) (a : Nat) (b : Byte) (ha : a < n) (h : m.within n = true) :
    (m.write a b).within n = true := by
  simp only [Memory.within, List.all_eq_true, decide_eq_true_eq] at h ⊢
  intro c hc
  rcases Memory.mem_write m a b c hc with hc | hc
  · omega
  · exact h c hc

/-- Reading after a little-endian store of `n` bytes. -/
theorem Memory.read_writeLE (m : Memory) (i : Nat) (v : Word) (n x : Nat) :
    (m.writeLE i v n).read x = if i ≤ x ∧ x < i + n then some (byteOf v (x - i)) else m.read x := by
  induction n with
  | zero => simp [Memory.writeLE]
  | succ n ih =>
    simp only [Memory.writeLE, Memory.read_write, ih]
    by_cases h : i + n = x
    · subst h; simp
    · simp only [h, if_false]
      congr 1
      exact propext (by omega)

/-- A little-endian store keeps the addresses strictly rising. -/
theorem Memory.writeLE_wf (m : Memory) (i : Nat) (v : Word) (n : Nat) (h : m.wf = true) :
    (m.writeLE i v n).wf = true := by
  induction n with
  | zero => exact h
  | succ n ih => exact Memory.write_wf _ _ _ ih

/-- A little-endian store inside the first `k` addresses keeps every address below `k`. -/
theorem Memory.writeLE_within (k : Nat) (m : Memory) (i : Nat) (v : Word) (n : Nat) (hi : i + n ≤ k)
    (h : m.within k = true) : (m.writeLE i v n).within k = true := by
  induction n with
  | zero => exact h
  | succ n ih => exact Memory.write_within _ _ _ _ (by omega) (ih (by omega))

end Sys2Proof.Machine
end

