-- ==== Sys2Proof/Laws/State.lean ====
section
/-! SUPPORT. One lemma per field per named update, each true by rfl, so that no proof unfolds a record update. -/

namespace Sys2Proof.Machine

/-! ### STATUS -/

@[simp] theorem Status.accepted_busy (st : Status) : st.accepted.busy = true := rfl
@[simp] theorem Status.accepted_done (st : Status) : st.accepted.done = false := rfl
@[simp] theorem Status.accepted_pass (st : Status) : st.accepted.pass = st.pass := rfl
@[simp] theorem Status.accepted_navValid (st : Status) : st.accepted.navValid = st.navValid := rfl
@[simp] theorem Status.accepted_reason (st : Status) : st.accepted.reason = st.reason := rfl
@[simp] theorem Status.accepted_ovr (st : Status) : st.accepted.ovr = st.ovr := rfl
@[simp] theorem Status.passed_busy (st : Status) : st.passed.busy = false := rfl
@[simp] theorem Status.passed_done (st : Status) : st.passed.done = true := rfl
@[simp] theorem Status.passed_pass (st : Status) : st.passed.pass = true := rfl
@[simp] theorem Status.passed_navValid (st : Status) : st.passed.navValid = st.navValid := rfl
@[simp] theorem Status.passed_reason (st : Status) : st.passed.reason = .ok := rfl
@[simp] theorem Status.passed_ovr (st : Status) : st.passed.ovr = st.ovr := rfl
@[simp] theorem Status.overrun_busy (st : Status) : st.overrun.busy = st.busy := rfl
@[simp] theorem Status.overrun_done (st : Status) : st.overrun.done = st.done := rfl
@[simp] theorem Status.overrun_pass (st : Status) : st.overrun.pass = st.pass := rfl
@[simp] theorem Status.overrun_navValid (st : Status) : st.overrun.navValid = st.navValid := rfl
@[simp] theorem Status.overrun_reason (st : Status) : st.overrun.reason = st.reason := rfl
@[simp] theorem Status.overrun_ovr (st : Status) : st.overrun.ovr = true := rfl
@[simp] theorem Status.withNavValid_busy (st : Status) : st.withNavValid.busy = st.busy := rfl
@[simp] theorem Status.withNavValid_done (st : Status) : st.withNavValid.done = st.done := rfl
@[simp] theorem Status.withNavValid_pass (st : Status) : st.withNavValid.pass = st.pass := rfl
@[simp] theorem Status.withNavValid_navValid (st : Status) : st.withNavValid.navValid = true := rfl
@[simp] theorem Status.withNavValid_reason (st : Status) : st.withNavValid.reason = st.reason := rfl
@[simp] theorem Status.withNavValid_ovr (st : Status) : st.withNavValid.ovr = st.ovr := rfl
@[simp] theorem Status.rejected_busy (st : Status) (c : Reason) : (st.rejected c).busy = false := rfl
@[simp] theorem Status.rejected_done (st : Status) (c : Reason) : (st.rejected c).done = true := rfl
@[simp] theorem Status.rejected_pass (st : Status) (c : Reason) : (st.rejected c).pass = false := rfl
@[simp] theorem Status.rejected_navValid (st : Status) (c : Reason) : (st.rejected c).navValid = st.navValid := rfl
@[simp] theorem Status.rejected_reason (st : Status) (c : Reason) : (st.rejected c).reason = c := rfl
@[simp] theorem Status.rejected_ovr (st : Status) (c : Reason) : (st.rejected c).ovr = st.ovr := rfl
@[simp] theorem Status.hostWrite_busy (st : Status) (v : Word) : (st.hostWrite v).busy = st.busy := by
  unfold Status.hostWrite; split <;> rfl
@[simp] theorem Status.hostWrite_done (st : Status) (v : Word) : (st.hostWrite v).done = st.done := by
  unfold Status.hostWrite; split <;> rfl
@[simp] theorem Status.hostWrite_pass (st : Status) (v : Word) : (st.hostWrite v).pass = st.pass := by
  unfold Status.hostWrite; split <;> rfl
@[simp] theorem Status.hostWrite_navValid (st : Status) (v : Word) : (st.hostWrite v).navValid = st.navValid := by
  unfold Status.hostWrite; split <;> rfl
@[simp] theorem Status.hostWrite_reason (st : Status) (v : Word) : (st.hostWrite v).reason = st.reason := by
  unfold Status.hostWrite; split <;> rfl
/-- A host write to STATUS clears OVR exactly when bit 8 is 1 (R30). -/
@[simp] theorem Status.hostWrite_ovr (st : Status) (v : Word) : (st.hostWrite v).ovr = (st.ovr && !v.getLsbD 8) := by
  unfold Status.hostWrite; split <;> simp_all


/-! ### issue -/

@[simp] theorem issue_params (w : Word) (s : State) : (issue w s).params = s.params := rfl
@[simp] theorem issue_pending (w : Word) (s : State) : (issue w s).pending = some w := rfl
@[simp] theorem issue_status (w : Word) (s : State) : (issue w s).status = s.status.accepted := rfl
@[simp] theorem issue_inSize (w : Word) (s : State) : (issue w s).inSize = s.inSize := rfl
@[simp] theorem issue_ckStart (w : Word) (s : State) : (issue w s).ckStart = s.ckStart := rfl
@[simp] theorem issue_ckEnd (w : Word) (s : State) : (issue w s).ckEnd = s.ckEnd := rfl
@[simp] theorem issue_ckResult (w : Word) (s : State) : (issue w s).ckResult = s.ckResult := rfl
@[simp] theorem issue_extData (w : Word) (s : State) : (issue w s).extData = s.extData := rfl
@[simp] theorem issue_outLen (w : Word) (s : State) : (issue w s).outLen = s.outLen := rfl
@[simp] theorem issue_keyRate (w : Word) (s : State) : (issue w s).keyRate = s.keyRate := rfl
@[simp] theorem issue_frameInfo (w : Word) (s : State) : (issue w s).frameInfo = s.frameInfo := rfl
@[simp] theorem issue_nav (w : Word) (s : State) : (issue w s).nav = s.nav := rfl
@[simp] theorem issue_outBuf (w : Word) (s : State) : (issue w s).outBuf = s.outBuf := rfl
@[simp] theorem issue_inBuf (w : Word) (s : State) : (issue w s).inBuf = s.inBuf := rfl
@[simp] theorem issue_draws (w : Word) (s : State) : (issue w s).draws = s.draws := rfl
@[simp] theorem issue_schedule (w : Word) (s : State) : (issue w s).schedule = s.schedule := rfl
@[simp] theorem issue_port (w : Word) (s : State) : (issue w s).port = s.port := rfl

/-! ### accept -/

@[simp] theorem accept_params (s : State) : (accept s).params = s.params := rfl
@[simp] theorem accept_pending (s : State) : (accept s).pending = none := rfl
@[simp] theorem accept_status (s : State) : (accept s).status = s.status.passed := rfl
@[simp] theorem accept_inSize (s : State) : (accept s).inSize = s.inSize := rfl
@[simp] theorem accept_ckStart (s : State) : (accept s).ckStart = s.ckStart := rfl
@[simp] theorem accept_ckEnd (s : State) : (accept s).ckEnd = s.ckEnd := rfl
@[simp] theorem accept_ckResult (s : State) : (accept s).ckResult = s.ckResult := rfl
@[simp] theorem accept_extData (s : State) : (accept s).extData = s.extData := rfl
@[simp] theorem accept_outLen (s : State) : (accept s).outLen = s.outLen := rfl
@[simp] theorem accept_keyRate (s : State) : (accept s).keyRate = s.keyRate := rfl
@[simp] theorem accept_frameInfo (s : State) : (accept s).frameInfo = s.frameInfo := rfl
@[simp] theorem accept_nav (s : State) : (accept s).nav = s.nav := rfl
@[simp] theorem accept_outBuf (s : State) : (accept s).outBuf = s.outBuf := rfl
@[simp] theorem accept_inBuf (s : State) : (accept s).inBuf = s.inBuf := rfl
@[simp] theorem accept_draws (s : State) : (accept s).draws = s.draws := rfl
@[simp] theorem accept_schedule (s : State) : (accept s).schedule = s.schedule := rfl
@[simp] theorem accept_port (s : State) : (accept s).port = s.port := rfl

/-! ### reject -/

@[simp] theorem reject_params (c : Reason) (s : State) : (reject c s).params = s.params := rfl
@[simp] theorem reject_pending (c : Reason) (s : State) : (reject c s).pending = none := rfl
@[simp] theorem reject_status (c : Reason) (s : State) : (reject c s).status = s.status.rejected c := rfl
@[simp] theorem reject_inSize (c : Reason) (s : State) : (reject c s).inSize = s.inSize := rfl
@[simp] theorem reject_ckStart (c : Reason) (s : State) : (reject c s).ckStart = s.ckStart := rfl
@[simp] theorem reject_ckEnd (c : Reason) (s : State) : (reject c s).ckEnd = s.ckEnd := rfl
@[simp] theorem reject_ckResult (c : Reason) (s : State) : (reject c s).ckResult = s.ckResult := rfl
@[simp] theorem reject_extData (c : Reason) (s : State) : (reject c s).extData = s.extData := rfl
@[simp] theorem reject_outLen (c : Reason) (s : State) : (reject c s).outLen = s.outLen := rfl
@[simp] theorem reject_keyRate (c : Reason) (s : State) : (reject c s).keyRate = s.keyRate := rfl
@[simp] theorem reject_frameInfo (c : Reason) (s : State) : (reject c s).frameInfo = s.frameInfo := rfl
@[simp] theorem reject_nav (c : Reason) (s : State) : (reject c s).nav = s.nav := rfl
@[simp] theorem reject_outBuf (c : Reason) (s : State) : (reject c s).outBuf = s.outBuf := rfl
@[simp] theorem reject_inBuf (c : Reason) (s : State) : (reject c s).inBuf = s.inBuf := rfl
@[simp] theorem reject_draws (c : Reason) (s : State) : (reject c s).draws = s.draws := rfl
@[simp] theorem reject_schedule (c : Reason) (s : State) : (reject c s).schedule = s.schedule := rfl
@[simp] theorem reject_port (c : Reason) (s : State) : (reject c s).port = s.port := rfl

/-! ### commitFrame -/

@[simp] theorem commitFrame_params (f : Frame17) (s : State) : (commitFrame f s).params = s.params := rfl
@[simp] theorem commitFrame_pending (f : Frame17) (s : State) : (commitFrame f s).pending = none := rfl
@[simp] theorem commitFrame_status (f : Frame17) (s : State) : (commitFrame f s).status = s.status.passed := rfl
@[simp] theorem commitFrame_inSize (f : Frame17) (s : State) : (commitFrame f s).inSize = s.inSize := rfl
@[simp] theorem commitFrame_ckStart (f : Frame17) (s : State) : (commitFrame f s).ckStart = s.ckStart := rfl
@[simp] theorem commitFrame_ckEnd (f : Frame17) (s : State) : (commitFrame f s).ckEnd = s.ckEnd := rfl
@[simp] theorem commitFrame_ckResult (f : Frame17) (s : State) : (commitFrame f s).ckResult = s.ckResult := rfl
@[simp] theorem commitFrame_extData (f : Frame17) (s : State) : (commitFrame f s).extData = s.extData := rfl
@[simp] theorem commitFrame_outLen (f : Frame17) (s : State) : (commitFrame f s).outLen = 17#8 := rfl
@[simp] theorem commitFrame_keyRate (f : Frame17) (s : State) : (commitFrame f s).keyRate = s.keyRate := rfl
@[simp] theorem commitFrame_frameInfo (f : Frame17) (s : State) : (commitFrame f s).frameInfo = s.frameInfo := rfl
@[simp] theorem commitFrame_nav (f : Frame17) (s : State) : (commitFrame f s).nav = s.nav := rfl
@[simp] theorem commitFrame_outBuf (f : Frame17) (s : State) : (commitFrame f s).outBuf = f := rfl
@[simp] theorem commitFrame_inBuf (f : Frame17) (s : State) : (commitFrame f s).inBuf = s.inBuf := rfl
@[simp] theorem commitFrame_draws (f : Frame17) (s : State) : (commitFrame f s).draws = s.draws := rfl
@[simp] theorem commitFrame_schedule (f : Frame17) (s : State) : (commitFrame f s).schedule = s.schedule := rfl
@[simp] theorem commitFrame_port (f : Frame17) (s : State) : (commitFrame f s).port = s.port := rfl

/-! ### resetEvent -/

@[simp] theorem resetEvent_params (s : State) : (resetEvent s).params = s.params := rfl
@[simp] theorem resetEvent_pending (s : State) : (resetEvent s).pending = none := rfl
@[simp] theorem resetEvent_status (s : State) : (resetEvent s).status = Status.zero := rfl
@[simp] theorem resetEvent_inSize (s : State) : (resetEvent s).inSize = 0 := rfl
@[simp] theorem resetEvent_ckStart (s : State) : (resetEvent s).ckStart = 0 := rfl
@[simp] theorem resetEvent_ckEnd (s : State) : (resetEvent s).ckEnd = 0 := rfl
@[simp] theorem resetEvent_ckResult (s : State) : (resetEvent s).ckResult = { a := 0, b := 0 } := rfl
@[simp] theorem resetEvent_extData (s : State) : (resetEvent s).extData = 0 := rfl
@[simp] theorem resetEvent_outLen (s : State) : (resetEvent s).outLen = 0 := rfl
@[simp] theorem resetEvent_keyRate (s : State) : (resetEvent s).keyRate = s.params.rateKeyDefault := rfl
@[simp] theorem resetEvent_frameInfo (s : State) : (resetEvent s).frameInfo = { cls := 0, id := 0, len := 0 } := rfl
@[simp] theorem resetEvent_nav (s : State) : (resetEvent s).nav = Vector.replicate 32 0#32 := rfl
@[simp] theorem resetEvent_outBuf (s : State) : (resetEvent s).outBuf = Vector.replicate 17 0#8 := rfl
@[simp] theorem resetEvent_inBuf (s : State) : (resetEvent s).inBuf = [] := rfl
@[simp] theorem resetEvent_draws (s : State) : (resetEvent s).draws = s.draws + 1 := rfl
@[simp] theorem resetEvent_schedule (s : State) : (resetEvent s).schedule = s.schedule := rfl
@[simp] theorem resetEvent_port (s : State) : (resetEvent s).port = .none := rfl

/-! ### IN_BUF's byte reads only IN_BUF and the draw -/

@[simp] theorem issue_inByte (w : Word) (s : State) (i : Nat) : (issue w s).inByte i = s.inByte i := rfl
@[simp] theorem accept_inByte (s : State) (i : Nat) : (accept s).inByte i = s.inByte i := rfl
@[simp] theorem reject_inByte (c : Reason) (s : State) (i : Nat) : (reject c s).inByte i = s.inByte i := rfl

/-- `IN[i]` is a function of IN_BUF and the draw alone. -/
theorem State.inByte_congr (s t : State) (h : t.inBuf = s.inBuf) (hd : t.draws = s.draws) (i : Nat) :
    t.inByte i = s.inByte i := by
  simp [State.inByte, h, hd]

end Sys2Proof.Machine
end

