-- ==== Sys2Proof/Laws/Ops.lean ====
section
/-! SUPPORT. What the shared operations compute: bytes of words, little-endian composition, the Fletcher-8 accumulator,
IN_BUF after a write. -/

namespace Sys2Proof.Machine

/-! ### Bytes and byte order -/

/-- Byte `k` of a word is the word shifted down. -/
theorem byteOf_eq_shift (v : Word) (k : Nat) : byteOf v k = (v >>> (8 * k)).setWidth 8 := by
  apply BitVec.eq_of_getLsbD_eq
  intro i hi
  simp [byteOf, BitVec.getLsbD_extractLsb', BitVec.getLsbD_ushiftRight]

/-- A word is the concatenation of its four bytes. -/
theorem append_byteOf (v : Word) : byteOf v 3 ++ byteOf v 2 ++ byteOf v 1 ++ byteOf v 0 = v := by
  apply BitVec.eq_of_getLsbD_eq
  intro i hi
  rw [BitVec.getLsbD_append, BitVec.getLsbD_append, BitVec.getLsbD_append]
  simp only [byteOf, BitVec.getLsbD_extractLsb']
  interval_cases i <;> simp

theorem composeLE_one (rd : Nat → Byte) (i : Nat) : composeLE rd i 1 = 0#24 ++ rd i := by
  simp only [composeLE, Nat.mul_zero, BitVec.shiftLeft_zero, BitVec.zero_or, Nat.add_zero]
  generalize rd i = a
  apply BitVec.eq_of_getLsbD_eq
  intro j hj
  simp
  grind

theorem composeLE_two (rd : Nat → Byte) (i : Nat) : composeLE rd i 2 = 0#16 ++ rd (i + 1) ++ rd i := by
  simp only [composeLE, Nat.mul_zero, BitVec.shiftLeft_zero, BitVec.zero_or, Nat.add_zero]
  generalize rd i = a
  generalize rd (i + 1) = b
  apply BitVec.eq_of_getLsbD_eq
  intro j hj
  simp
  grind

theorem composeLE_four (rd : Nat → Byte) (i : Nat) :
    composeLE rd i 4 = rd (i + 3) ++ rd (i + 2) ++ rd (i + 1) ++ rd i := by
  simp only [composeLE, Nat.mul_zero, BitVec.shiftLeft_zero, BitVec.zero_or, Nat.add_zero]
  generalize rd i = a
  generalize rd (i + 1) = b
  generalize rd (i + 2) = c
  generalize rd (i + 3) = d
  apply BitVec.eq_of_getLsbD_eq
  intro j hj
  simp
  grind

/-- A composition depends on the bytes it covers only. -/
theorem composeLE_congr (rd rd' : Nat → Byte) (i n : Nat) (h : ∀ k, k < n → rd (i + k) = rd' (i + k)) :
    composeLE rd i n = composeLE rd' i n := by
  induction n with
  | zero => rfl
  | succ n ih => simp only [composeLE, ih fun k hk => h k (by omega), h n (by omega)]

/-- A composition of 1, 2 or 4 bytes reads as the sum of its bytes by weight. -/
theorem composeLE_toNat (rd : Nat → Byte) (i n : Nat) (hn : n ≤ 4) :
    (composeLE rd i n).toNat = ((List.range n).map (fun k => (rd (i + k)).toNat * 256 ^ k)).sum ∧
      (composeLE rd i n).toNat < 256 ^ n := by
  induction n with
  | zero => simp [composeLE]
  | succ n ih =>
    obtain ⟨hsum, hlt⟩ := ih (by omega)
    have hb := (rd (i + n)).isLt
    have hcat : (composeLE rd i (n + 1)).toNat = (composeLE rd i n).toNat + (rd (i + n)).toNat * 256 ^ n := by
      simp only [composeLE, BitVec.toNat_or, BitVec.toNat_shiftLeft, BitVec.toNat_setWidth]
      rw [Nat.mod_eq_of_lt (show (rd (i + n)).toNat < 2 ^ 32 by omega)]
      have hpow : (2 : Nat) ^ (8 * n) = 256 ^ n := by rw [Nat.pow_mul]
      have hshift : (rd (i + n)).toNat <<< (8 * n) < 2 ^ 32 := by
        rw [Nat.shiftLeft_eq, hpow]
        have : 256 ^ n ≤ 256 ^ 3 := Nat.pow_le_pow_right (by omega) (by omega)
        calc _ < 256 * 256 ^ 3 := Nat.mul_lt_mul_of_lt_of_le (by omega) this (by positivity)
          _ = 2 ^ 32 := by norm_num
      rw [Nat.mod_eq_of_lt hshift, Nat.or_comm, ← Nat.shiftLeft_add_eq_or_of_lt (by rw [hpow]; exact hlt),
        Nat.shiftLeft_eq, hpow, Nat.add_comm]
    constructor
    · rw [hcat, hsum, List.range_succ]; simp
    · rw [hcat, Nat.pow_succ]; nlinarith

/-! ### The Fletcher-8 accumulator -/

@[simp] theorem fletcherOf_nil : fletcherOf [] = (0#8, 0#8) := rfl

/-- One more byte is one more turn of the loop. -/
theorem fletcherOf_snoc (bytes : List Byte) (x : Byte) :
    fletcherOf (bytes ++ [x]) = fletcherStep (fletcherOf bytes) x := by
  simp [fletcherOf]

/-- `IN[i..j)` is empty when `j <= i`. -/
theorem State.inRange_empty (s : State) (i j : Nat) (h : j ≤ i) : s.inRange i j = [] := by
  simp [State.inRange, Nat.sub_eq_zero_of_le h]

/-- `IN[i..j]` is `IN[i..j)` and the byte `IN[j]`. -/
theorem State.inRange_succ (s : State) (i j : Nat) (h : i ≤ j) :
    s.inRange i (j + 1) = s.inRange i j ++ [s.inByte j] := by
  have hlen : j + 1 - i = (j - i) + 1 := by omega
  simp only [State.inRange, hlen, List.range'_concat, List.map_append, List.map_cons, List.map_nil]
  congr 2
  rw [Nat.one_mul, Nat.add_sub_cancel' h]

/-- A range is a function of its bytes. -/
theorem State.inRange_congr (s t : State) (i j : Nat) (h : ∀ k, i ≤ k → k < j → t.inByte k = s.inByte k) :
    t.inRange i j = s.inRange i j := by
  simp only [State.inRange]
  apply List.map_congr_left
  intro k hk
  rw [List.mem_range'] at hk
  obtain ⟨d, hd, rfl⟩ := hk
  exact h _ (by omega) (by omega)

/-- The pair over a range is a function of the bytes of that range. -/
theorem fletcher_congr (s t : State) (i j : Nat) (h : ∀ k, i ≤ k → k < j → t.inByte k = s.inByte k) :
    fletcher t i j = fletcher s i j := by
  rw [fletcher, fletcher, State.inRange_congr s t i j h]

/-! ### IN_BUF after a write -/

/-- `IN[x]` after the byte `b` is written at `k`. -/
theorem State.inByte_write (s : State) (k : Nat) (b : Byte) (x : Nat) :
    ({ s with inBuf := s.inBuf.write k b } : State).inByte x = if k = x then b else s.inByte x := by
  simp only [State.inByte, Memory.read_write]
  split <;> rfl

/-- `IN[x]` after a little-endian store of `n` bytes of `v` at `i`. -/
theorem State.inByte_writeLE (s : State) (i : Nat) (v : Word) (n x : Nat) :
    ({ s with inBuf := s.inBuf.writeLE i v n } : State).inByte x =
      if i ≤ x ∧ x < i + n then byteOf v (x - i) else s.inByte x := by
  simp only [State.inByte, Memory.read_writeLE]
  split <;> rfl

end Sys2Proof.Machine
end

