-- ==== Sys2Proof/Laws/Commands.lean ====
section
/-! SUPPORT. What each command can do, said once: the validator's and the range check's consequences, and one inversion
lemma for the whole of exec. -/

namespace Sys2Proof.Machine

/-- What a frame that passes validation is known to be (R140). -/
theorem validate_ok (s : State) (h : validate s = .ok) :
    s.inSize.toNat ≤ s.params.nIn ∧ 8 ≤ s.inSize.toNat ∧ checksumMatches s = true := by
  unfold validate Config.minFrame at h
  grind

/-- The trailing-checksum test as two equations (R122). -/
theorem checksumMatches_iff (s : State) : checksumMatches s = true ↔
    (fletcher s 2 (s.inSize.toNat - 2)).1 = s.inByte (s.inSize.toNat - 2)
      ∧ (fletcher s 2 (s.inSize.toNat - 2)).2 = s.inByte (s.inSize.toNat - 1) := by
  simp [checksumMatches]

/-- A field that passes the range check lies inside IN_SIZE, which lies inside the capacity (R161). -/
theorem extCheck_ok (s : State) (off n : Nat) :
    extCheck s off n = .ok ↔ s.inSize.toNat ≤ s.params.nIn ∧ off + n ≤ s.inSize.toNat := by
  unfold extCheck
  grind

/-- The range check answers nothing else but RANGE. -/
theorem extCheck_not_ok (s : State) (off n : Nat) (h : extCheck s off n ≠ .ok) : extCheck s off n = .range := by
  unfold extCheck at h ⊢
  grind

/-- A new record comes only from a payload of 92 bytes inside IN_SIZE (R182, R183). -/
theorem pvtCheck_ok (s : State) : pvtCheck s = .ok ↔ (le s 4 2).toNat = 92 ∧ 100 ≤ s.inSize.toNat := by
  unfold pvtCheck Config.pvtLen Config.pvtFrame
  grind

/-- The one row of DISPATCH (R220). -/
theorem dispatch_eq (cls id : Byte) :
    dispatch cls id = if cls = Config.clsNav ∧ id = Config.idPvt then some .pvt else none := by
  simp only [dispatch, dispatchTable, List.find?]
  grind

/-- The results an accepted command commits, by its family. -/
inductive Accepted (s : State) : Instr → State → Prop
  | nop : Accepted s .nop (accept s)
  | ckCompute : Accepted s .ckCompute (accept { s with
      ckResult := { a := (fletcher s s.ckStart.toNat s.ckEnd.toNat).1
                    b := (fletcher s s.ckStart.toNat s.ckEnd.toNat).2 } })
  | ckVerify : Accepted s .ckVerify (accept s)
  | frameValidate (h : validate s = .ok) : Accepted s .frameValidate (accept { s with frameInfo := headerOf s })
  | ubxDecode (h : validate s = .ok) (hd : dispatch (s.inByte 2) (s.inByte 3) = some .pvt) (hp : pvtCheck s = .ok) :
      Accepted s .ubxDecode (accept { s with
        frameInfo := headerOf s, nav := Vector.ofFn (navValue s), status := s.status.withNavValid })
  | extU8 (off : Nat) (h : extCheck s off 1 = .ok) :
      Accepted s (.extU8 off) (accept { s with extData := extract s off 1 false })
  | extU16 (off : Nat) (h : extCheck s off 2 = .ok) :
      Accepted s (.extU16 off) (accept { s with extData := extract s off 2 false })
  | extU32 (off : Nat) (h : extCheck s off 4 = .ok) :
      Accepted s (.extU32 off) (accept { s with extData := extract s off 4 false })
  | extI8 (off : Nat) (h : extCheck s off 1 = .ok) :
      Accepted s (.extI8 off) (accept { s with extData := extract s off 1 true })
  | extI16 (off : Nat) (h : extCheck s off 2 = .ok) :
      Accepted s (.extI16 off) (accept { s with extData := extract s off 2 true })
  | extI32 (off : Nat) (h : extCheck s off 4 = .ok) :
      Accepted s (.extI32 off) (accept { s with extData := extract s off 4 true })
  | cfgNmeaOff : Accepted s .cfgNmeaOff (commitFrame (build s.params.nmeaKey Config.nmeaOffValue) s)
  | cfgRate (rate : Nat) : Accepted s (.cfgRate rate) (commitFrame (build s.keyRate (rateByte rate)) s)

/-- How a rejected command ends: with STATUS alone, or with FRAME_INFO besides, for a ubx.decode whose validation
passed. -/
inductive Rejected (s : State) : Instr → State → Prop
  | statusOnly (i : Instr) (c : Reason) (hc : c ≠ .ok) : Rejected s i (reject c s)
  | afterValidation (c : Reason) (hc : c ≠ .ok) (h : validate s = .ok) :
      Rejected s .ubxDecode (reject c { s with frameInfo := headerOf s })

/-- The shared form of ext.* either rejects with RANGE or commits EXT_DATA. -/
theorem extCommand_cases (off n : Nat) (signed : Bool) (s : State) :
    (extCheck s off n = .ok ∧ extCommand off n signed s = .next (accept { s with extData := extract s off n signed })) ∨
    (extCheck s off n ≠ .ok ∧ extCommand off n signed s = .next (reject .range s)) := by
  unfold extCommand
  by_cases h : extCheck s off n = .ok
  · exact .inl ⟨h, by simp [h]⟩
  · exact .inr ⟨h, by simp [extCheck_not_ok s off n h]⟩

/-- ubx.decode rejects after validation, or commits the whole record. -/
theorem decodeValidated_cases (s : State) :
    (∃ c, c ≠ .ok ∧ decodeValidated s = reject c s) ∨
    (dispatch (s.inByte 2) (s.inByte 3) = some .pvt ∧ pvtCheck s = .ok ∧
      decodeValidated s = accept { s with nav := Vector.ofFn (navValue s), status := s.status.withNavValid }) := by
  unfold decodeValidated pvtDecode
  cases hd : dispatch (s.inByte 2) (s.inByte 3) with
  | none => exact .inl ⟨.unknownMessage, by decide, rfl⟩
  | some d =>
    cases d
    by_cases hp : pvtCheck s = .ok
    · exact .inr ⟨rfl, hp, by simp [hp]⟩
    · exact .inl ⟨pvtCheck s, hp, by simp [hp]⟩

/-- Every command ends in exactly one of `accept()` and `reject(code)` (R46, R262). -/
theorem exec_cases (i : Instr) (s : State) : ∃ t, exec i s = .next t ∧ (Accepted s i t ∨ Rejected s i t) := by
  cases i with
  | nop => exact ⟨_, rfl, .inl .nop⟩
  | ckCompute =>
    simp only [exec, execCkCompute]
    split
    · exact ⟨_, rfl, .inr (.statusOnly _ _ (by decide))⟩
    · split
      · exact ⟨_, rfl, .inr (.statusOnly _ _ (by decide))⟩
      · exact ⟨_, rfl, .inl .ckCompute⟩
  | ckVerify =>
    simp only [exec, execCkVerify]
    split
    · exact ⟨_, rfl, .inr (.statusOnly _ _ (by decide))⟩
    · split
      · exact ⟨_, rfl, .inr (.statusOnly _ _ (by decide))⟩
      · split
        · exact ⟨_, rfl, .inl .ckVerify⟩
        · exact ⟨_, rfl, .inr (.statusOnly _ _ (by decide))⟩
  | frameValidate =>
    simp only [exec, execFrameValidate]
    split
    · exact ⟨_, rfl, .inl (.frameValidate ‹_›)⟩
    · exact ⟨_, rfl, .inr (.statusOnly _ _ ‹_›)⟩
  | ubxDecode =>
    simp only [exec, execUbxDecode]
    split
    · rename_i hv
      rcases decodeValidated_cases { s with frameInfo := headerOf s } with ⟨c, hc, h⟩ | ⟨hd, hp, h⟩
      · exact ⟨_, rfl, .inr (h ▸ .afterValidation c hc hv)⟩
      · exact ⟨_, rfl, .inl (h ▸ .ubxDecode hv hd hp)⟩
    · exact ⟨_, rfl, .inr (.statusOnly _ _ ‹_›)⟩
  | extU8 off =>
    rcases extCommand_cases off 1 false s with ⟨h, e⟩ | ⟨_, e⟩
    · exact ⟨_, e, .inl (.extU8 off h)⟩
    · exact ⟨_, e, .inr (.statusOnly _ _ (by decide))⟩
  | extU16 off =>
    rcases extCommand_cases off 2 false s with ⟨h, e⟩ | ⟨_, e⟩
    · exact ⟨_, e, .inl (.extU16 off h)⟩
    · exact ⟨_, e, .inr (.statusOnly _ _ (by decide))⟩
  | extU32 off =>
    rcases extCommand_cases off 4 false s with ⟨h, e⟩ | ⟨_, e⟩
    · exact ⟨_, e, .inl (.extU32 off h)⟩
    · exact ⟨_, e, .inr (.statusOnly _ _ (by decide))⟩
  | extI8 off =>
    rcases extCommand_cases off 1 true s with ⟨h, e⟩ | ⟨_, e⟩
    · exact ⟨_, e, .inl (.extI8 off h)⟩
    · exact ⟨_, e, .inr (.statusOnly _ _ (by decide))⟩
  | extI16 off =>
    rcases extCommand_cases off 2 true s with ⟨h, e⟩ | ⟨_, e⟩
    · exact ⟨_, e, .inl (.extI16 off h)⟩
    · exact ⟨_, e, .inr (.statusOnly _ _ (by decide))⟩
  | extI32 off =>
    rcases extCommand_cases off 4 true s with ⟨h, e⟩ | ⟨_, e⟩
    · exact ⟨_, e, .inl (.extI32 off h)⟩
    · exact ⟨_, e, .inr (.statusOnly _ _ (by decide))⟩
  | cfgNmeaOff => exact ⟨_, rfl, .inl .cfgNmeaOff⟩
  | cfgRate rate => exact ⟨_, rfl, .inl (.cfgRate rate)⟩

end Sys2Proof.Machine
end

