-- ==== Sys2Proof/Laws/PerInstr.lean ====
section
/-! SUPPORT. One lemma per command: its encoding is a word of its row of spec/opcode_table.json, with the operand in the
row's operand bits (the family EncodedRow). -/

namespace Sys2Proof.Laws.EncodedRow

/-- The row's (match, mask) of a command, from spec/opcode_table.json. -/
def row : Instr → Word × Word
  | .nop => (0x00000000#32, 0xFFFFFFFF#32)
  | .ckCompute => (0x00000001#32, 0xFFFFFFFF#32)
  | .ckVerify => (0x00000002#32, 0xFFFFFFFF#32)
  | .frameValidate => (0x00000003#32, 0xFFFFFFFF#32)
  | .ubxDecode => (0x00000004#32, 0xFFFFFFFF#32)
  | .extU8 _ => (0x00000005#32, 0x0000FFFF#32)
  | .extU16 _ => (0x00000015#32, 0x0000FFFF#32)
  | .extU32 _ => (0x00000025#32, 0x0000FFFF#32)
  | .extI8 _ => (0x00000045#32, 0x0000FFFF#32)
  | .extI16 _ => (0x00000055#32, 0x0000FFFF#32)
  | .extI32 _ => (0x00000065#32, 0x0000FFFF#32)
  | .cfgNmeaOff => (0x00000006#32, 0xFFFFFFFF#32)
  | .cfgRate _ => (0x00000007#32, 0xFFFF00FF#32)

/-- The encoded word matches its row, and its reserved bit R7 is 0 (R91, R98). -/
def Statement (i : Instr) : Prop := encode i &&& (row i).2 = (row i).1 ∧ (encode i).getLsbD 7 = false

theorem nop : Statement .nop := ⟨by decide, by decide⟩
theorem ckCompute : Statement .ckCompute := ⟨by decide, by decide⟩
theorem ckVerify : Statement .ckVerify := ⟨by decide, by decide⟩
theorem frameValidate : Statement .frameValidate := ⟨by decide, by decide⟩
theorem ubxDecode : Statement .ubxDecode := ⟨by decide, by decide⟩
theorem cfgNmeaOff : Statement .cfgNmeaOff := ⟨by decide, by decide⟩

/-- The low half of a command word does not depend on the offset field. -/
theorem commandWord_low (off16 : Half) (sign : BitVec 1) (width : BitVec 2) (op : BitVec 4) :
    commandWord off16 0 sign width op &&& 0x0000FFFF#32 = commandWord 0 0 sign width op ∧
      (commandWord off16 0 sign width op).getLsbD 7 = false := by
  constructor
  · apply BitVec.eq_of_getLsbD_eq
    intro i hi
    simp only [commandWord, BitVec.getLsbD_and, BitVec.getLsbD_append]
    interval_cases i <;> simp
  · simp only [commandWord, BitVec.getLsbD_append]; simp

theorem extU8 (off : Nat) : Statement (.extU8 off) := commandWord_low _ 0 0 0x5
theorem extU16 (off : Nat) : Statement (.extU16 off) := commandWord_low _ 0 1 0x5
theorem extU32 (off : Nat) : Statement (.extU32 off) := commandWord_low _ 0 2 0x5
theorem extI8 (off : Nat) : Statement (.extI8 off) := commandWord_low _ 1 0 0x5
theorem extI16 (off : Nat) : Statement (.extI16 off) := commandWord_low _ 1 1 0x5
theorem extI32 (off : Nat) : Statement (.extI32 off) := commandWord_low _ 1 2 0x5

theorem cfgRate (rate : Nat) : Statement (.cfgRate rate) := by
  constructor
  · apply BitVec.eq_of_getLsbD_eq
    intro i hi
    simp only [encode, row, commandWord, BitVec.getLsbD_and, BitVec.getLsbD_append]
    interval_cases i <;> simp
  · simp only [encode, commandWord, BitVec.getLsbD_append]; simp

end Sys2Proof.Laws.EncodedRow
end

