-- ==== Sys2Proof/Laws/Step.lean ====
section
/-! SUPPORT. What a host access, the engine's turn and a step can do, said once. -/

namespace Sys2Proof.Machine

/-- An access is a BusError exactly when it is not legal (R66). -/
theorem isBusError_iff (a : Nat) (n : AccessSize) : isBusError a n = true ↔ ¬ LegalAccess a n := by
  simp only [isBusError, LegalAccess, decide_eq_true_eq]
  grind

theorem isBusError_false (a : Nat) (n : AccessSize) (h : LegalAccess a n) : isBusError a n = false := by
  have := isBusError_iff a n
  cases hb : isBusError a n <;> simp_all

/-- A target is frozen while BUSY exactly when its offset is an operand's (R44). -/
theorem droppedWhileBusy_iff (nIn a : Nat) : (target nIn a).droppedWhileBusy = true ↔ operandOffset nIn a := by
  unfold target operandOffset
  split_ifs <;> simp_all [Target.droppedWhileBusy]

/-- What a host read does (R63, R67): only the port answers. -/
theorem hostRead_cases (addr : Addr) (n : AccessSize) (s : State) :
    (¬ LegalAccess addr.toNat n ∧ hostRead addr n s = { s with port := .busError }) ∨
    (LegalAccess addr.toNat n ∧
      hostRead addr n s = { s with port := .data (composeLE s.byteAt addr.toNat n.bytes) }) := by
  by_cases h : LegalAccess addr.toNat n
  · exact .inr ⟨h, by simp [hostRead, memRead, isBusError_false _ _ h]⟩
  · exact .inl ⟨h, by simp [hostRead, memRead, (isBusError_iff _ _).mpr h]⟩

/-- What a host write does (R64): a BusError, a drop, or its target's effect. -/
theorem hostWrite_cases (addr : Addr) (n : AccessSize) (v : Word) (s : State) :
    (¬ LegalAccess addr.toNat n ∧ hostWrite addr n v s = { s with port := .busError }) ∨
    (LegalAccess addr.toNat n ∧ s.status.busy = true ∧ operandOffset s.params.nIn addr.toNat ∧
      hostWrite addr n v s = { s with status := s.status.overrun, port := .written }) ∨
    (LegalAccess addr.toNat n ∧ ¬ (s.status.busy = true ∧ operandOffset s.params.nIn addr.toNat) ∧
      hostWrite addr n v s = { writeTarget (target s.params.nIn addr.toNat) n v s with port := .written }) := by
  by_cases h : LegalAccess addr.toNat n
  · have hb := isBusError_false _ _ h
    have hd := droppedWhileBusy_iff s.params.nIn addr.toNat
    by_cases hc : s.status.busy = true ∧ operandOffset s.params.nIn addr.toNat
    · exact .inr (.inl ⟨h, hc.1, hc.2, by simp [hostWrite, memWrite, hb, hc.1, hd.mpr hc.2]⟩)
    · refine .inr (.inr ⟨h, hc, ?_⟩)
      have : (s.status.busy && (target s.params.nIn addr.toNat).droppedWhileBusy) = false := by
        rw [← hd] at hc
        cases hs : s.status.busy <;> simp_all
      simp [hostWrite, memWrite, hb, this]
  · exact .inl ⟨h, by simp [hostWrite, memWrite, (isBusError_iff _ _).mpr h]⟩

/-- The engine's turn with a pending word: its command's completion, or the rejection of an illegal word (R97). -/
theorem engineTurn_cases (s : State) (w : Word) (hw : s.pending = some w) :
    (∃ i t, decode w = .instr i ∧ exec i s = .next t ∧ engineTurn s = .next t ∧ (Accepted s i t ∨ Rejected s i t)) ∨
    (∃ why, decode w = .illegal why ∧ engineTurn s = .next (reject .illegalCmd s)) := by
  cases hd : decode w with
  | instr i =>
    obtain ⟨t, he, hc⟩ := exec_cases i s
    exact .inl ⟨i, t, rfl, he, by simp [engineTurn, hw, completeWord, hd, he], hc⟩
  | illegal why => exact .inr ⟨why, rfl, by simp [engineTurn, hw, completeWord, hd]⟩

/-- The engine's turn with nothing pending leaves the state. -/
theorem engineTurn_idle (s : State) (h : s.pending = none) : engineTurn s = .next s := by
  simp [engineTurn, h]

/-- What an event of the host can do: nothing but answer, be dropped with OVR, or have its target's effect. -/
theorem perform_host_cases (s t : State) (e : Event) (h : perform e s = .next t) (he : e ≠ .engine) (hr : e ≠ .reset) :
    (t = { s with port := t.port } ∧ ∀ addr n v, e = .write addr n v → ¬ LegalAccess addr.toNat n) ∨
    ∃ addr n v, e = .write addr n v ∧ LegalAccess addr.toNat n ∧
      ((s.status.busy = true ∧ operandOffset s.params.nIn addr.toNat ∧
        t = { s with status := s.status.overrun, port := .written }) ∨
      (¬ (s.status.busy = true ∧ operandOffset s.params.nIn addr.toNat) ∧
        t = { writeTarget (target s.params.nIn addr.toNat) n v s with port := .written })) := by
  cases e with
  | engine => exact absurd rfl he
  | reset => exact absurd rfl hr
  | read addr n =>
    simp only [perform, Host.Outcome.next.injEq] at h
    rcases hostRead_cases addr n s with ⟨_, hh⟩ | ⟨_, hh⟩ <;> rw [hh] at h <;> subst h <;> exact .inl ⟨rfl, by simp⟩
  | write addr n v =>
    simp only [perform, Host.Outcome.next.injEq] at h
    rcases hostWrite_cases addr n v s with ⟨hl, hh⟩ | ⟨hl, hb, ho, hh⟩ | ⟨hl, ho, hh⟩ <;> rw [hh] at h <;> subst h
    · refine .inl ⟨rfl, fun a m w hw => ?_⟩
      simp only [Event.write.injEq] at hw
      obtain ⟨rfl, rfl, rfl⟩ := hw
      exact hl
    · exact .inr ⟨addr, n, v, rfl, hl, .inl ⟨hb, ho, rfl⟩⟩
    · exact .inr ⟨addr, n, v, rfl, hl, .inr ⟨ho, rfl⟩⟩

/-- A step is the performing of one event on the state without it: the schedule's first, or the engine's turn. -/
theorem step_eq (s : State) : ∃ e rest, step s = perform e { s with schedule := rest } ∧
    (s.schedule = e :: rest ∨ (s.schedule = [] ∧ e = .engine ∧ rest = [])) := by
  cases h : s.schedule with
  | nil =>
    refine ⟨.engine, [], ?_, .inr ⟨rfl, rfl, rfl⟩⟩
    have hs : ({ s with schedule := [] } : State) = s := by cases s; simp_all
    simp [step, nextStep, h, perform, hs]
  | cons e rest => exact ⟨e, rest, by simp [step, nextStep, h], .inl rfl⟩

end Sys2Proof.Machine
end

