-- ==== Sys2Proof/Laws/Window.lean ====
section
/-! SUPPORT. The host window as the host reads it: when a register, a byte or a word reads as before, and what a read of a
register or of a byte of a composition gives. -/

namespace Sys2Proof.Machine

/-- A register reads as before where its own field is as before. -/
theorem State.regAt_congr (s t : State) (a : Nat)
    (h004 : a = 0x004 → t.status = s.status) (h008 : a = 0x008 → t.inSize = s.inSize)
    (h00c : a = 0x00C → t.ckStart = s.ckStart) (h010 : a = 0x010 → t.ckEnd = s.ckEnd)
    (h014 : a = 0x014 → t.ckResult = s.ckResult) (h018 : a = 0x018 → t.extData = s.extData)
    (h01c : a = 0x01C → t.outLen = s.outLen) (h020 : a = 0x020 → t.keyRate = s.keyRate)
    (h024 : a = 0x024 → t.params = s.params) (h028 : a = 0x028 → t.frameInfo = s.frameInfo)
    (h040 : 0x040 ≤ a ∧ a < 0x0C0 → t.nav = s.nav) : t.regAt a = s.regAt a := by
  unfold State.regAt
  by_cases h : a = 0x004
  · simp [h, h004]
  by_cases h : a = 0x008
  · simp [h, h008]
  by_cases h : a = 0x00C
  · simp [h, h00c]
  by_cases h : a = 0x010
  · simp [h, h010]
  by_cases h : a = 0x014
  · simp [h, h014]
  by_cases h : a = 0x018
  · simp [h, h018]
  by_cases h : a = 0x01C
  · simp [h, h01c]
  by_cases h : a = 0x020
  · simp [h, h020]
  by_cases h : a = 0x024
  · simp [h, h024]
  by_cases h : a = 0x028
  · simp [h, h028]
  by_cases h : 0x040 ≤ a ∧ a < 0x0C0
  · simp [*]
  · simp [*]

/-- A window byte reads as before where the register, OUT_BUF byte or IN_BUF it comes from is as before. -/
theorem State.byteAt_congr (s t : State) (o : Nat)
    (hreg : o < 0x100 → t.regAt (o - o % 4) = s.regAt (o - o % 4))
    (hout : 0x100 ≤ o → o ≤ 0x110 → t.outBuf = s.outBuf) (hparams : t.params = s.params)
    (hin : t.inBuf = s.inBuf) (hdraws : t.draws = s.draws) : t.byteAt o = s.byteAt o := by
  unfold State.byteAt
  by_cases h : o < 0x100
  · simp [h, hreg h]
  by_cases h' : o ≤ 0x110
  · simp [h, h', State.outByte, hout (by omega) h']
  · simp [h, h', hparams, State.inByte, hin, hdraws]

/-- Byte `k` of a little-endian composition is its `k`-th byte (R63, R65). -/
theorem byteOf_composeLE (rd : Nat → Byte) (i n k : Nat) (hn : n ≤ 4) (hk : k < n) :
    byteOf (composeLE rd i n) k = rd (i + k) := by
  induction n with
  | zero => omega
  | succ n ih =>
    apply BitVec.eq_of_getLsbD_eq
    intro j hj
    have hbelow : ∀ x, 8 * n ≤ x → (composeLE rd i n).getLsbD x = false := by
      intro x hx
      have hlt := (composeLE_toNat rd i n (by omega)).2
      rw [BitVec.getLsbD, Nat.testBit_lt_two_pow]
      calc _ < 256 ^ n := hlt
        _ = 2 ^ (8 * n) := by rw [Nat.pow_mul]
        _ ≤ 2 ^ x := Nat.pow_le_pow_right (by omega) hx
    by_cases hkn : k = n
    · subst hkn
      simp only [byteOf, BitVec.getLsbD_extractLsb', composeLE, BitVec.getLsbD_or, BitVec.getLsbD_shiftLeft,
        BitVec.getLsbD_setWidth, hbelow (8 * k + j) (by omega)]
      have e : 8 * k + j - 8 * k = j := by omega
      have e32 : 8 * k + j < 32 := by omega
      simp [e32, e, hj]
      intro _; omega
    · rw [← ih (by omega) (by omega)]
      simp only [byteOf, BitVec.getLsbD_extractLsb', composeLE, BitVec.getLsbD_or, BitVec.getLsbD_shiftLeft]
      have e : 8 * k + j < 8 * n := by omega
      simp [e]

/-- A word read of a register gives that register (R22, R63). -/
theorem memRead_register (s : State) (addr : Addr) (haligned : addr.toNat % 4 = 0) (h : addr.toNat < 0x100) :
    memRead addr .four s = some (s.regAt addr.toNat) := by
  have hl : LegalAccess addr.toNat .four := ⟨haligned, fun _ => rfl⟩
  have hbyte : ∀ k < 4, s.byteAt (addr.toNat + k) = byteOf (s.regAt addr.toNat) k := by
    intro k hk
    unfold State.byteAt
    rw [if_pos (by omega), show (addr.toNat + k) % 4 = k by omega, Nat.add_sub_cancel]
  have h0 := hbyte 0 (by omega)
  rw [Nat.add_zero] at h0
  simp only [memRead, isBusError_false _ _ hl, AccessSize.bytes, composeLE_four, hbyte 1 (by omega),
    hbyte 2 (by omega), hbyte 3 (by omega), h0, append_byteOf, Bool.false_eq_true, if_false]

/-- A host write that is legal and not dropped has its target's effect (R64). -/
theorem memWrite_taken (s : State) (addr : Addr) (n : AccessSize) (v : Word) (hl : LegalAccess addr.toNat n)
    (h : ¬ (s.status.busy = true ∧ operandOffset s.params.nIn addr.toNat)) :
    memWrite addr n v s = some (writeTarget (target s.params.nIn addr.toNat) n v s) := by
  have : (s.status.busy && (target s.params.nIn addr.toNat).droppedWhileBusy) = false := by
    rw [← droppedWhileBusy_iff] at h
    cases hb : s.status.busy <;> simp_all
  simp [memWrite, isBusError_false _ _ hl, this]

/-- The target of an offset that is neither an operand's nor STATUS is none (R61, R64). -/
theorem target_other (nIn a : Nat) (hs : a ≠ 0x004) (h : ¬ operandOffset nIn a) : target nIn a = .other := by
  unfold operandOffset at h
  unfold target
  split_ifs <;> first | rfl | omega

/-- The target of an IN_BUF offset (R61, R64). -/
theorem target_inBuf (nIn a : Nat) (h : 0x400 ≤ a) (hn : a < 0x400 + nIn) : target nIn a = .inBuf (a - 0x400) := by
  unfold target
  split_ifs <;> first | rfl | omega

end Sys2Proof.Machine
end

