-- ==== Sys2Proof/Tests/Slice0.lean ====
section
/-! SUPPORT. The model's own tests, and for every statement with hypotheses a state and operands that meet them. The
expected results are the words, frames and values of spec/95_test_vectors.md, or worked out by hand from the rule named;
none is the model's own answer. -/

namespace Sys2Proof.Machine

/-! ### Helpers -/

/-- The next state of an outcome. -/
def after (o : Host.Outcome State Fault Refusal) : Option State :=
  match o with
  | .next t => some t
  | .fault f => nomatch f
  | .refused _ => none

/-- What holds of the next state, as an existence. -/
theorem next_of_after {o : Host.Outcome State Fault Refusal} {p : State → Bool} (h : (after o).any p = true) :
    ∃ t, o = .next t ∧ p t = true := by
  cases o with
  | next t => exact ⟨t, rfl, by simpa [after] using h⟩
  | fault f => cases f
  | refused r => simp [after] at h

/-- The byte pairs of a frame, from frame offset `i` on. -/
def cells (i : Nat) : List Byte → Memory
  | [] => []
  | b :: rest => (i, b) :: cells (i + 1) rest

/-- The machine after reset with a frame written to IN_BUF from offset 0, and IN_SIZE its length. -/
def withFrame (bytes : List Byte) : State :=
  { State.reset with inBuf := cells 0 bytes, inSize := BitVec.ofNat 16 bytes.length }

/-- The same with the one byte at offset `k` changed to `b`. -/
def withByte (bytes : List Byte) (k : Nat) (b : Byte) : State := withFrame (bytes.set k b)

/-- The reference frame F1 of spec/95_test_vectors.md 2.1 (NAV-PVT, 100 bytes). -/
def f1 : List Byte :=
  [0xb5, 0x62, 0x01, 0x07, 0x5c, 0x00, 0x00, 0x70, 0x99, 0x14, 0xea, 0x07, 0x0b, 0x0b, 0x0d, 0x1d]
  ++ [0x1e, 0x37, 0x19, 0x00, 0x00, 0x00, 0xc0, 0x1d, 0xfe, 0xff, 0x03, 0x01, 0xe0, 0x12, 0xf9, 0xd9]
  ++ [0x9c, 0xb6, 0xf9, 0xaa, 0x5c, 0x1d, 0x08, 0x4c, 0x01, 0x00, 0xc9, 0x8f, 0x01, 0x00, 0xdc, 0x05]
  ++ [0x00, 0x00, 0xfc, 0x08, 0x00, 0x00, 0x06, 0xff, 0xff, 0xff, 0xb0, 0x04, 0x00, 0x00, 0xf1, 0xff]
  ++ [0xff, 0xff, 0xca, 0x04, 0x00, 0x00, 0x18, 0x42, 0x9b, 0x00, 0x50, 0x00, 0x00, 0x00, 0xce, 0xca]
  ++ [0x23, 0x00, 0x7b, 0x00, 0x00, 0x00, 0x00, 0x00, 0x00, 0x00, 0x00, 0x00, 0x00, 0x00, 0x02, 0xfa]
  ++ [0x38, 0x00, 0xe5, 0xb8]

/-- The 8-byte frame of vector V-V1. -/
def emptyPvt : List Byte := [0xb5, 0x62, 0x01, 0x07, 0x00, 0x00, 0x08, 0x19]

/-- The ACK-ACK-shaped frame of vector V-V9. -/
def ackFrame : List Byte := [0xb5, 0x62, 0x05, 0x01, 0x02, 0x00, 0x06, 0x8a, 0x98, 0xc1]

/-- The configuration frame of vector V-G2. -/
def rateFrame : List Byte :=
  [0xb5, 0x62, 0x06, 0x8a, 0x09, 0x00, 0x00, 0x01, 0x00, 0x00, 0x07, 0x00, 0x91, 0x20, 0x05, 0x57, 0x4c]

/-- F1 with its declared length 91 and its checksum made again (vector V-D4). -/
def f1Length91 : List Byte := ((f1.set 4 0x5b).set 98 0xe4).set 99 0x5a

/-- F1's bytes 0..96 and the checksum of 99 bytes (vector V-D6). -/
def f1Truncated : List Byte := f1.take 97 ++ [0xe5, 0xd3]

/-- `s` with the range of ck.compute. -/
def withRange (s : State) (first last : Half) : State := { s with ckStart := first, ckEnd := last }

/-- `s` with a command word accepted (R90). -/
def busyWith (w : Word) (s : State) : State := issue w s

/-! ### WellFormed: the operand ranges of R99, at their ends -/

theorem test_wf_refuses_offsets_beyond_65535 :
    [Instr.extU8 65536, .extU16 65536, .extU32 65536, .extI8 65536, .extI16 65536, .extI32 65536].map Instr.wf
      = [false, false, false, false, false, false] := by decide

theorem test_wf_admits_offset_65535 :
    [Instr.extU8 65535, .extU16 65535, .extU32 65535, .extI8 65535, .extI16 65535, .extI32 65535].all Instr.wf
      = true := by decide

theorem test_wf_refuses_rate_256 : (Instr.cfgRate 256).wf = false ∧ (Instr.cfgRate 255).wf = true := by decide

/-! ### Decode: words written out field by field, OFF16, IMM8, R7, S, W, OP (R91, R92, R93) -/

theorem test_decode_nop : decode 0b0000000000000000_00000000_0_0_00_0000#32 = .instr .nop := by decide
theorem test_decode_ckCompute : decode 0b0000000000000000_00000000_0_0_00_0001#32 = .instr .ckCompute := by decide
theorem test_decode_ckVerify : decode 0b0000000000000000_00000000_0_0_00_0010#32 = .instr .ckVerify := by decide
theorem test_decode_frameValidate :
    decode 0b0000000000000000_00000000_0_0_00_0011#32 = .instr .frameValidate := by decide
theorem test_decode_ubxDecode : decode 0b0000000000000000_00000000_0_0_00_0100#32 = .instr .ubxDecode := by decide
theorem test_decode_extU8 : decode 0b0000000000010110_00000000_0_0_00_0101#32 = .instr (.extU8 22) := by decide
theorem test_decode_extU16 : decode 0b0000000001011110_00000000_0_0_01_0101#32 = .instr (.extU16 94) := by decide
theorem test_decode_extU32 : decode 0b0000000000000110_00000000_0_0_10_0101#32 = .instr (.extU32 6) := by decide
theorem test_decode_extI8 : decode 0b0000000000010110_00000000_0_1_00_0101#32 = .instr (.extI8 22) := by decide
theorem test_decode_extI16 :
    decode 0b1111111111111111_00000000_0_1_01_0101#32 = .instr (.extI16 65535) := by decide
theorem test_decode_extI32 : decode 0b0000000000011110_00000000_0_1_10_0101#32 = .instr (.extI32 30) := by decide
theorem test_decode_cfgNmeaOff : decode 0b0000000000000000_00000000_0_0_00_0110#32 = .instr .cfgNmeaOff := by decide
theorem test_decode_cfgRate : decode 0b0000000000000000_00000101_0_0_00_0111#32 = .instr (.cfgRate 5) := by decide

/-- V-X2 to V-X6 and V-E17: the illegal words, and no instruction of the table in them. -/
theorem test_illegal_words :
    [0x00000008, 0x00000009, 0x00000080, 0x00000104, 0x00010001, 0x00000016, 0x00000035, 0x00000017].map
      (decodeTableWord 32) = [none, none, none, none, none, none, none, none] := by decide

/-! ### The commands, on the vectors of spec/95_test_vectors.md -/

/-- V-X1: nop after a rejection. -/
theorem test_nop :
    (after (exec .nop { State.reset with status := (Status.zero.rejected .badChecksum) })).map
      (fun t => t.status.toWord) = some 0x6#32 := by decide

/-- V-C1, V-C2 and V-C9: the sums and their wrapping. -/
theorem test_ckCompute_sums :
    ([withRange (withFrame [0x01, 0x02, 0x03, 0x04]) 0 4, withRange (withFrame [0xff, 0xff, 0xff, 0xff]) 0 4,
      withRange (withFrame [0xff, 0x01]) 0 2].map
        (fun s => (after (exec .ckCompute s)).map (fun t => (t.regAt 0x014, t.status.toWord))))
      = [some (0x140A#32, 0x6#32), some (0xF6FC#32, 0x6#32), some (0xFF00#32, 0x6#32)] := by decide +kernel

/-- V-C6, V-C7, V-C5: past IN_SIZE, IN_SIZE past the capacity, and an empty range whatever its end. -/
theorem test_ckCompute_ranges :
    ([withRange (withFrame [0x01, 0x02, 0x03, 0x04]) 0 5, { State.reset with inSize := 300 },
      withRange (withFrame [0x01, 0x02, 0x03, 0x04]) 9 3].map
        (fun s => (after (exec .ckCompute s)).map (fun t => (t.regAt 0x014, t.status.toWord))))
      = [some (0#32, 0x72#32), some (0#32, 0x72#32), some (0#32, 0x6#32)] := by decide +kernel

/-- V-C14, V-C15, V-C16, V-C17: the shortest trailer, a wrong one, too short, and a built frame. -/
theorem test_ckVerify :
    ([withFrame [0xb5, 0x62, 0x00, 0x00], withFrame [0xb5, 0x62, 0x00, 0x01], withFrame [0xb5, 0x62, 0x00],
      withFrame rateFrame].map (fun s => (after (exec .ckVerify s)).map (fun t => t.status.toWord)))
      = [some 0x6#32, some 0x32#32, some 0x12#32, some 0x6#32] := by decide +kernel

/-- V-C13, V-C18: a corrupted payload byte fails, a corrupted sync byte is not looked at. -/
theorem test_ckVerify_f1 :
    ([withByte f1 30 0xf8, withByte f1 0 0x00].map
      (fun s => (after (exec .ckVerify s)).map (fun t => t.status.toWord))) = [some 0x32#32, some 0x6#32] := by
  decide +kernel

/-- V-V1, V-V9, V-V10, V-V7: the headers of valid frames, one whose length field disagrees with IN_SIZE among them. -/
theorem test_frameValidate_accepts :
    ([withFrame emptyPvt, withFrame ackFrame, withFrame [0xb5, 0x62, 0x01, 0x07, 0x00, 0x00, 0x00, 0x00, 0x08, 0x29],
      withFrame f1].map
        (fun s => (after (exec .frameValidate s)).map (fun t => (t.regAt 0x028, t.status.toWord))))
      = [some (0x00000701#32, 0x6#32), some (0x00020105#32, 0x6#32), some (0x00000701#32, 0x6#32),
         some (0x005C0701#32, 0x6#32)] := by decide +kernel

/-- V-V2, V-V5, V-V6, V-V8: the first failing step is the one reported. -/
theorem test_frameValidate_rejects :
    ([{ withFrame emptyPvt with inSize := 7 }, withFrame ((f1.set 0 0xb6).set 99 0x00), withByte f1 99 0xb9,
      { State.reset with inSize := 1000 }].map
        (fun s => (after (exec .frameValidate s)).map (fun t => (t.regAt 0x028, t.status.toWord))))
      = [some (0#32, 0x12#32), some (0#32, 0x22#32), some (0#32, 0x32#32), some (0#32, 0x72#32)] := by
  decide +kernel

/-- EXT_DATA and STATUS after a command, for a test. -/
def extResult (i : Instr) (s : State) : Option (Word × Word) :=
  (after (exec i s)).map (fun t => (t.extData, t.status.toWord))

/-- V-E1, V-E9, V-E10. -/
theorem test_extU8 : [extResult (.extU8 22) (withFrame f1), extResult (.extU8 99) (withFrame f1),
    extResult (.extU8 100) (withFrame f1)]
    = [some (0x000000C0#32, 0x6#32), some (0x000000B8#32, 0x6#32), some (0#32, 0x72#32)] := by decide +kernel

/-- V-E3, V-E4. -/
theorem test_extU16 : [extResult (.extU16 4) (withFrame f1), extResult (.extU16 94) (withFrame f1)]
    = [some (0x0000005C#32, 0x6#32), some (0x0000FA02#32, 0x6#32)] := by decide +kernel

/-- V-E6, V-E8, V-E11, V-E12. -/
theorem test_extU32 : [extResult (.extU32 6) (withFrame f1), extResult (.extU32 22) (withFrame f1),
    extResult (.extU32 97) (withFrame f1), extResult (.extU32 96) (withFrame f1)]
    = [some (0x14997000#32, 0x6#32), some (0xFFFE1DC0#32, 0x6#32), some (0#32, 0x72#32),
       some (0xB8E50038#32, 0x6#32)] := by decide +kernel

/-- V-E2, V-E14. -/
theorem test_extI8 : [extResult (.extI8 22) (withFrame f1), extResult (.extI8 0) (withFrame [0x7f, 0x80, 0xff]),
    extResult (.extI8 1) (withFrame [0x7f, 0x80, 0xff]), extResult (.extI8 2) (withFrame [0x7f, 0x80, 0xff])]
    = [some (0xFFFFFFC0#32, 0x6#32), some (0x0000007F#32, 0x6#32), some (0xFFFFFF80#32, 0x6#32),
       some (0xFFFFFFFF#32, 0x6#32)] := by decide +kernel

/-- V-E5, V-E13, V-E15. -/
theorem test_extI16 : [extResult (.extI16 94) (withFrame f1), extResult (.extI16 65535) (withFrame f1),
    extResult (.extI16 0) (withFrame [0xff, 0x7f, 0x00, 0x80, 0xff, 0xff]),
    extResult (.extI16 2) (withFrame [0xff, 0x7f, 0x00, 0x80, 0xff, 0xff])]
    = [some (0xFFFFFA02#32, 0x6#32), some (0#32, 0x72#32), some (0x00007FFF#32, 0x6#32),
       some (0xFFFF8000#32, 0x6#32)] := by decide +kernel

/-- V-E7. -/
theorem test_extI32 : extResult (.extI32 30) (withFrame f1) = some (0xB69CD9F9#32, 0x6#32) := by decide +kernel

/-- V-D1: the 32 registers that F1 gives, FRAME_INFO and STATUS. -/
theorem test_ubxDecode_f1 :
    (after (exec .ubxDecode (withFrame f1))).map (fun t => (t.nav.toList, t.regAt 0x028, t.status.toWord))
    = some ([0x14997000, 0x7EA, 0xB, 0xB, 0xD, 0x1D, 0x1E, 0x37, 0x19, 0xFFFE1DC0, 0x3, 0x1, 0xE0, 0x12, 0xB69CD9F9,
        0x1D5CAAF9, 0x14C08, 0x18FC9, 0x5DC, 0x8FC, 0xFFFFFF06, 0x4B0, 0xFFFFFFF1, 0x4CA, 0x9B4218, 0x50, 0x23CACE,
        0x7B, 0x0, 0x0, 0xFFFFFA02, 0x38], 0x005C0701#32, 0xE#32) := by decide +kernel

/-- V-D10, V-D8, V-D9, V-D4, V-D5, V-D6: the rejections, which leave NAV zero; FRAME_INFO shows a valid frame. -/
theorem test_ubxDecode_rejects :
    ([withByte f1 1 0x00, withFrame ackFrame, withFrame rateFrame, withFrame f1Length91, withFrame emptyPvt,
      withFrame f1Truncated].map
        (fun s => (after (exec .ubxDecode s)).map
          (fun t => (decide (t.nav = s.nav), t.regAt 0x028, t.status.toWord))))
      = [some (true, 0#32, 0x22#32), some (true, 0x00020105#32, 0x42#32), some (true, 0x00098A06#32, 0x42#32),
         some (true, 0x005B0701#32, 0x52#32), some (true, 0x00000701#32, 0x52#32),
         some (true, 0x005C0701#32, 0x62#32)] := by decide +kernel

/-- V-G1, V-G7. -/
theorem test_cfgNmeaOff :
    ([State.reset, State.resetWith { Config.Params.reference with nmeaKey := 0x10760002 } 0].map
      (fun s => (after (exec .cfgNmeaOff s)).map (fun t => (t.outBuf.toList, t.outLen, t.status.toWord))))
    = [some ([0xb5, 0x62, 0x06, 0x8a, 0x09, 0x00, 0x00, 0x01, 0x00, 0x00, 0x02, 0x00, 0x74, 0x10, 0x00, 0x20, 0xb7],
          17#8, 0x6#32),
       some ([0xb5, 0x62, 0x06, 0x8a, 0x09, 0x00, 0x00, 0x01, 0x00, 0x00, 0x02, 0x00, 0x76, 0x10, 0x00, 0x22, 0xbd],
          17#8, 0x6#32)] := by decide +kernel

/-- V-G3, V-G4, V-G5: the rate bytes 1, 0 and 255. -/
theorem test_cfgRate :
    ([1, 0, 255].map (fun r => (after (exec (.cfgRate r) State.reset)).map (fun t => t.outBuf.toList)))
    = [some [0xb5, 0x62, 0x06, 0x8a, 0x09, 0x00, 0x00, 0x01, 0x00, 0x00, 0x07, 0x00, 0x91, 0x20, 0x01, 0x53, 0x48],
       some [0xb5, 0x62, 0x06, 0x8a, 0x09, 0x00, 0x00, 0x01, 0x00, 0x00, 0x07, 0x00, 0x91, 0x20, 0x00, 0x52, 0x47],
       some [0xb5, 0x62, 0x06, 0x8a, 0x09, 0x00, 0x00, 0x01, 0x00, 0x00, 0x07, 0x00, 0x91, 0x20, 0xff, 0x51, 0x46]] := by
  decide +kernel

/-- V-G2, through withFetchWord and the machine's step. -/
theorem test_cfgRate_by_step :
    (after (step (State.reset.withFetchWord 32 0x00000507))).map (fun t => (t.outBuf.toList, t.outLen))
      = some (rateFrame, 17#8) := by decide +kernel

/-- V-X2: an illegal word completes with ILLEGAL_CMD. -/
theorem test_illegal_word_completes :
    (after (engineTurn (busyWith 0x00000008 State.reset))).map (fun t => t.status.toWord) = some 0x82#32 := by decide

/-! ### The host port -/

/-- V-X7, V-X8: BusErrors. -/
theorem test_busErrors : memRead 0x004 .one State.reset = none ∧ memWrite 0x401 .two 0x1234 State.reset = none := by
  decide

/-- V-X9, V-X11, V-X13, V-X14: reads of a reserved register, of CMD and of the two keys. -/
theorem test_register_reads :
    [0x02C, 0x000, 0x024, 0x020].map (fun a => memRead a .four State.reset)
      = [some 0#32, some 0#32, some 0x10740002#32, some 0x20910007#32] := by decide

/-- V-X10 and V-X12: an ignored write, and bits 31:16 of IN_SIZE. -/
theorem test_writes :
    memWrite 0x100 .one 0x55 State.reset = some State.reset
    ∧ (memWrite 0x008 .four 0xFFFF0064 State.reset).map (fun t => t.inSize) = some 0x0064#16 := by decide

/-- Program P3, `in.size 8` before the completion: dropped, OVR set; and the W1C write clears it. -/
theorem test_overrun :
    (memWrite 0x008 .four 8 (busyWith 0x4 { State.reset with inSize := 100 })).map (fun t => (t.inSize, t.status.ovr))
      = some (100#16, true)
    ∧ (memWrite 0x004 .four 0x100 { State.reset with status := Status.zero.overrun }).map (fun t => t.status.ovr)
      = some false := by decide

/-- Program P4: a word and a halfword write, and a byte read back. -/
theorem test_little_endian :
    ((memWrite 0x404 .four 0x0080FFFE State.reset).bind (fun t => memRead 0x404 .one t)) = some 0xFE#32
    ∧ ((memWrite 0x408 .two 0x8000 State.reset).bind (fun t => memRead 0x409 .one t)) = some 0x80#32 := by decide

/-- Program P5: `lw 0x10C` after cfg.nmea_off. -/
theorem test_out_read : ((after (exec .cfgNmeaOff State.reset)).bind (fun t => memRead 0x10C .four t))
    = some 0x20001074#32 := by decide +kernel

/-- Program P2: `ext.pvt velN` is `ext.i32 54`, one write of 0x00360065 to CMD. -/
theorem test_ext_pvt_velN : HostLine.expand (.extPvt 20) = [.write 0x000 .four 0x00360065#32] := by decide

/-! ### Witnesses: for every statement with hypotheses, states and operands that meet all of them -/

/-- The machine after reset with a command word in flight. -/
def inFlight (w : Word) : State := issue w State.reset

/-- F1 in IN_BUF and ubx.decode in flight. -/
def decoding : State := busyWith 0x4 (withFrame f1)

/-- The handshake, where its four parts hold of a concrete state. -/
theorem handshake_of (s : State)
    (h : decide (s.status.busy = s.pending.isSome) && (!s.status.done || !s.status.busy)
      && (!s.status.pass || decide (s.status.reason = .ok))
      && (!s.status.done || s.status.pass || decide (s.status.reason ≠ .ok)) = true) : s.Handshake := by
  simp only [Bool.and_eq_true, Bool.or_eq_true, Bool.not_eq_true', decide_eq_true_eq] at h
  constructor <;> intros <;> grind

theorem canonical_of (s : State) (hp : decide s.params.Ok && (s.inBuf.wf && s.inBuf.within s.params.nIn) = true) :
    s.Canonical := by
  simp only [Bool.and_eq_true, decide_eq_true_eq] at hp
  exact ⟨hp.1, hp.2.1, hp.2.2⟩

/-- DecodeAfterEncodeGivesTheCommand: every operand form at the end of its range. -/
theorem witness_DecodeAfterEncode : [Instr.nop, .ckCompute, .ckVerify, .frameValidate, .ubxDecode, .extU8 65535,
    .extU16 65535, .extU32 65535, .extI8 0, .extI16 0, .extI32 65535, .cfgNmeaOff, .cfgRate 0, .cfgRate 255].all
      Instr.wf = true := by decide

/-- EncodeAfterDecodeGivesTheWord. -/
theorem witness_EncodeAfterDecode :
    decode 0xFFFF0065#32 = .instr (.extI32 65535) ∧ decode 0x0000FF07#32 = .instr (.cfgRate 255) := by decide

/-- IllegalWordsAreThoseOfTheSixConditions: a word of each of the six conditions, in flight. -/
theorem witness_IllegalWords :
    [0x00000008#32, 0x00000035#32, 0x00000080#32, 0x00000016#32, 0x00000104#32, 0x00010001#32].all
      (fun w => (match decode w with | .illegal _ => true | .instr _ => false)
        && decide ((inFlight w).pending = some w)) = true := by decide

/-- StepPerformsTheNextEvent. -/
theorem witness_StepPerforms : ({ State.reset with schedule := [.reset, .engine] } : State).schedule
    = .reset :: [.engine] := rfl

/-- StepRunsTheDecodedCommand: the empty schedule, and the engine's turn first. -/
theorem witness_StepRuns :
    (inFlight 0x507).pending = some 0x507#32 ∧ decode 0x507#32 = .instr (.cfgRate 5) ∧ (inFlight 0x507).schedule = []
    ∧ ({ inFlight 0x507 with schedule := [.engine, .reset] } : State).schedule = .engine :: [.reset] := by decide

/-- PlacedWordRunsNext. -/
theorem witness_PlacedWord : decodeTableWord 32 0x001E0065 = some (.extI32 30) ∧ decodeTableWord 8 0x6 = some .cfgNmeaOff := by
  decide

/-- CmdWriteIssuesACommand: idle, busy, and idle with an illegal word written. -/
theorem witness_CmdWrite : State.reset.status.busy = false ∧ (inFlight 0).status.busy = true
    ∧ decode 0x9#32 = .illegal .reservedOp ∧ memWrite 0x000 .four 0x9 State.reset = some (inFlight 0x9) := by decide

/-- OperandsAreFrozenWhileBusy: the first and last operand offsets, STATUS, and a host step while BUSY. -/
theorem witness_OperandsAreFrozen :
    (inFlight 0).status.busy = true
    ∧ (LegalAccess (0x000 : Addr).toNat .four ∧ operandOffset (inFlight 0).params.nIn (0x000 : Addr).toNat)
    ∧ (LegalAccess (0x4FF : Addr).toNat .one ∧ operandOffset (inFlight 0).params.nIn (0x4FF : Addr).toNat)
    ∧ LegalAccess (0x004 : Addr).toNat .four
    ∧ (Event.write 0x008 .four 1 ≠ .engine ∧ Event.write 0x008 .four 1 ≠ .reset)
    ∧ perform (.write 0x008 .four 1) (inFlight 0) = .next (hostWrite 0x008 .four 1 (inFlight 0)) :=
  ⟨by decide, by unfold LegalAccess operandOffset; decide, by unfold LegalAccess operandOffset; decide,
    by unfold LegalAccess; decide, by decide, rfl⟩

/-- OvrIsStickyUntilWrittenOne: a drop, a write to STATUS, a legal write that is neither, a misaligned one, and the
engine's turn. -/
theorem witness_OvrIsSticky :
    (LegalAccess (0x020 : Addr).toNat .four ∧ (inFlight 0).status.busy = true
      ∧ operandOffset (inFlight 0).params.nIn (0x020 : Addr).toNat)
    ∧ LegalAccess (0x004 : Addr).toNat .four
    ∧ ((0x100 : Addr) ≠ 0x004 ∧ ¬ ((inFlight 0).status.busy = true
      ∧ operandOffset (inFlight 0).params.nIn (0x100 : Addr).toNat))
    ∧ ¬ LegalAccess (0x401 : Addr).toNat .two
    ∧ (Event.engine ≠ .reset ∧ perform .engine (inFlight 0) = .next (accept (inFlight 0)))
    ∧ perform (.write 0x020 .four 7) (inFlight 0) = .next (hostWrite 0x020 .four 7 (inFlight 0)) :=
  ⟨by unfold LegalAccess operandOffset; decide, by unfold LegalAccess; decide, by unfold operandOffset; decide,
    by unfold LegalAccess; decide, ⟨by decide, rfl⟩, rfl⟩

/-- CompletionAcceptsOrRejects: an accept, a reject, and a reject that changes FRAME_INFO. -/
theorem witness_Completion :
    (inFlight 0).pending = some 0#32 ∧ (inFlight 0x9).pending = some 0x9#32
    ∧ ((busyWith 0x4 (withFrame ackFrame)).pending = some 0x4#32
      ∧ (after (engineTurn (busyWith 0x4 (withFrame ackFrame)))).any
        (fun t => !t.status.pass && decide (t.frameInfo ≠ (busyWith 0x4 (withFrame ackFrame)).frameInfo)) = true) := by
  decide +kernel

/-- AcceptedCommandsComplete and StepKeepsTheHandshake: idle, and with a command in flight, which a step completes. -/
theorem witness_Handshake : State.reset.Handshake ∧ decoding.Handshake
    ∧ ∃ t, step decoding = .next t ∧ decide (t.status.busy = false) = true :=
  ⟨handshake_of _ (by decide), handshake_of _ (by decide), next_of_after (by decide +kernel)⟩

/-- FletcherRunsTheLoop: both clauses at `i = j`, and each alone. -/
theorem witness_Fletcher : (5 : Nat) ≤ 5 ∧ (3 : Nat) ≤ 9 ∧ (2 : Nat) ≤ 98 := by decide

/-- CkComputeWritesThePair: its four clauses, at their boundaries. -/
theorem witness_CkCompute :
    ({ State.reset with inSize := 257 } : State).params.nIn < ({ State.reset with inSize := 257 } : State).inSize.toNat
    ∧ ((withRange (withFrame [1, 2, 3, 4]) 4 5).ckStart.toNat < (withRange (withFrame [1, 2, 3, 4]) 4 5).ckEnd.toNat
      ∧ (withRange (withFrame [1, 2, 3, 4]) 4 5).inSize.toNat < (withRange (withFrame [1, 2, 3, 4]) 4 5).ckEnd.toNat)
    ∧ ((withRange (withFrame [1, 2, 3, 4]) 0 4).inSize.toNat ≤ (withRange (withFrame [1, 2, 3, 4]) 0 4).params.nIn
      ∧ (withRange (withFrame [1, 2, 3, 4]) 0 4).ckEnd.toNat ≤ (withRange (withFrame [1, 2, 3, 4]) 0 4).inSize.toNat)
    ∧ ((withRange (withFrame [1, 2, 3, 4]) 9 9).inSize.toNat ≤ (withRange (withFrame [1, 2, 3, 4]) 9 9).params.nIn
      ∧ (withRange (withFrame [1, 2, 3, 4]) 9 9).ckEnd.toNat ≤ (withRange (withFrame [1, 2, 3, 4]) 9 9).ckStart.toNat) := by
  decide

/-- The trailer test of CkVerifyChecksTheTrailer on a state. -/
def trailerMatches (s : State) : Bool := decide
  (fletcher s 2 (s.inSize.toNat - 2) = (s.inByte (s.inSize.toNat - 2), s.inByte (s.inSize.toNat - 1)))

/-- CkVerifyChecksTheTrailer: its four clauses, at IN_SIZE 257, 3 and 4. -/
theorem witness_CkVerify :
    ({ State.reset with inSize := 257 } : State).params.nIn < ({ State.reset with inSize := 257 } : State).inSize.toNat
    ∧ ((withFrame [0, 0, 0]).inSize.toNat ≤ (withFrame [0, 0, 0]).params.nIn ∧ (withFrame [0, 0, 0]).inSize.toNat < 4)
    ∧ (4 ≤ (withFrame [0, 0, 0, 1]).inSize.toNat ∧ trailerMatches (withFrame [0, 0, 0, 1]) = false)
    ∧ (4 ≤ (withFrame [0, 0, 0, 0]).inSize.toNat ∧ trailerMatches (withFrame [0, 0, 0, 0]) = true) := by decide +kernel

/-- FrameValidateReportsTheHeader: a valid frame and an invalid one. -/
theorem witness_FrameValidate : validate (withFrame emptyPvt) = .ok ∧ validate (withFrame f1Length91) = .ok
    ∧ validate (withByte emptyPvt 7 0x18) ≠ .ok := by decide +kernel

/-- ExtractReadsLittleEndianIntegers: each of the three widths. -/
theorem witness_Extract : 1 ∈ [1, 2, 4] ∧ 2 ∈ [1, 2, 4] ∧ 4 ∈ [1, 2, 4] := by decide

/-- UnsignedExtractorsWriteExtData and SignedExtractorsWriteExtData: the last field inside IN_SIZE and the first one past
it, for each width; IN_SIZE past the capacity; and the largest offset. -/
theorem witness_Extractors :
    (65535 < 65536) ∧ (withFrame f1).inSize.toNat ≤ (withFrame f1).params.nIn
    ∧ (99 + 1 ≤ (withFrame f1).inSize.toNat ∧ 98 + 2 ≤ (withFrame f1).inSize.toNat
      ∧ 96 + 4 ≤ (withFrame f1).inSize.toNat)
    ∧ ((withFrame f1).inSize.toNat < 100 + 1 ∧ (withFrame f1).inSize.toNat < 99 + 2
      ∧ (withFrame f1).inSize.toNat < 97 + 4)
    ∧ ({ State.reset with inSize := 257 } : State).params.nIn
      < ({ State.reset with inSize := 257 } : State).inSize.toNat := by decide

/-- What UbxDecodeCommitsTheRecord asks of a state, besides that the frame is valid. -/
def isPvt (s : State) : Bool := decide (s.inByte 2 = 0x01#8 ∧ s.inByte 3 = 0x07#8)

/-- The declared length that UbxDecodeCommitsTheRecord compares. -/
def declared (s : State) : Nat := (s.inByte 4).toNat + 256 * (s.inByte 5).toNat

/-- UbxDecodeCommitsTheRecord: its five clauses, with lengths 91 and 92 and IN_SIZE 99 and 100. -/
theorem witness_UbxDecode :
    validate (withByte f1 99 0xb9) ≠ .ok
    ∧ (validate (withFrame ackFrame) = .ok ∧ isPvt (withFrame ackFrame) = false)
    ∧ (validate (withFrame f1Length91) = .ok ∧ isPvt (withFrame f1Length91) = true
      ∧ declared (withFrame f1Length91) = 91)
    ∧ (validate (withFrame f1Truncated) = .ok ∧ isPvt (withFrame f1Truncated) = true
      ∧ declared (withFrame f1Truncated) = 92 ∧ (withFrame f1Truncated).inSize.toNat = 99)
    ∧ (validate (withFrame f1) = .ok ∧ isPvt (withFrame f1) = true ∧ declared (withFrame f1) = 92
      ∧ (withFrame f1).inSize.toNat = 100) := by decide +kernel

/-- CfgRateBuildsTheRateFrame: the two ends of the rate byte. -/
theorem witness_CfgRate : (0 : Nat) < 256 ∧ (255 : Nat) < 256 := by decide

/-- StatusOnlyCommandsKeepTheRest: nop, and ck.verify accepted and rejected. -/
theorem witness_StatusOnlyFrame :
    (∃ t, exec .nop State.reset = .next t ∧ t.status.pass = true)
    ∧ (∃ t, exec .ckVerify (withFrame rateFrame) = .next t ∧ t.status.pass = true)
    ∧ ∃ t, exec .ckVerify State.reset = .next t ∧ (!t.status.pass) = true :=
  ⟨next_of_after (by decide), next_of_after (by decide +kernel), next_of_after (by decide +kernel)⟩

/-- CkComputeKeepsTheRest: accepted and rejected. -/
theorem witness_CkComputeFrame :
    (∃ t, exec .ckCompute (withRange (withFrame [1, 2, 3, 4]) 0 4) = .next t ∧ t.status.pass = true)
    ∧ ∃ t, exec .ckCompute (withRange (withFrame [1, 2, 3, 4]) 0 5) = .next t ∧ (!t.status.pass) = true :=
  ⟨next_of_after (by decide +kernel), next_of_after (by decide +kernel)⟩

/-- ExtractorsKeepTheRest: the six commands are of the list, one accepted and one rejected. -/
theorem witness_ExtractorsFrame :
    [Instr.extU8 96, .extU16 96, .extU32 96, .extI8 96, .extI16 96, .extI32 96].all
      (fun i => decide (i ∈ [.extU8 96, .extU16 96, .extU32 96, .extI8 96, .extI16 96, .extI32 96])) = true
    ∧ (∃ t, exec (.extI32 96) (withFrame f1) = .next t ∧ t.status.pass = true)
    ∧ ∃ t, exec (.extU32 97) (withFrame f1) = .next t ∧ (!t.status.pass) = true :=
  ⟨by decide, next_of_after (by decide +kernel), next_of_after (by decide +kernel)⟩

/-- FrameValidateKeepsTheRest: accepted and rejected. -/
theorem witness_FrameValidateFrame :
    (∃ t, exec .frameValidate (withFrame emptyPvt) = .next t ∧ t.status.pass = true)
    ∧ ∃ t, exec .frameValidate (withByte emptyPvt 7 0x18) = .next t ∧ (!t.status.pass) = true :=
  ⟨next_of_after (by decide +kernel), next_of_after (by decide +kernel)⟩

/-- UbxDecodeKeepsTheRest: accepted, rejected after validation, and rejected by it. -/
theorem witness_UbxDecodeFrame :
    (∃ t, exec .ubxDecode (withFrame f1) = .next t ∧ t.status.pass = true)
    ∧ (∃ t, exec .ubxDecode (withFrame ackFrame) = .next t ∧ (!t.status.pass) = true)
    ∧ validate (withByte f1 99 0xb9) ≠ .ok
    ∧ ∃ t, exec .ubxDecode (withByte f1 99 0xb9) = .next t ∧ (!t.status.pass) = true :=
  ⟨next_of_after (by decide +kernel), next_of_after (by decide +kernel), by decide +kernel,
    next_of_after (by decide +kernel)⟩

/-- ConfigBuildersKeepTheRest and KeyNmeaIsConstant. -/
theorem witness_ConfigBuildersFrame :
    (∃ t, exec .cfgNmeaOff State.reset = .next t ∧ t.status.pass = true)
    ∧ (∃ t, exec (.cfgRate 255) State.reset = .next t ∧ t.status.pass = true)
    ∧ ∃ t, step (inFlight 0x6) = .next t ∧ t.status.pass = true :=
  ⟨next_of_after (by decide +kernel), next_of_after (by decide +kernel), next_of_after (by decide +kernel)⟩

/-- HostReadComposesTheBytes: a legal and an illegal access, and the ends of each region of the window. -/
theorem witness_HostRead :
    (LegalAccess (0xFFC : Addr).toNat .four ∧ ¬ LegalAccess (0x0FC : Addr).toNat .two ∧ 3 < AccessSize.four.bytes)
    ∧ (0xFF < 0x100 ∧ 255 < State.reset.params.nIn) ∧ (0x111 ≤ 0x111 ∧ 0x3FF < 0x400)
    ∧ 0x400 + State.reset.params.nIn ≤ 0x500 :=
  ⟨by unfold LegalAccess; decide, by decide, by decide, by decide⟩

/-- ReservedLocationsReadZero: the ends of the four reserved regions, a legal access there, and an idle core. -/
theorem witness_Reserved :
    State.reset.params.Ok ∧ State.reset.status.busy = false
    ∧ (∀ o ∈ [0x02C, 0x03F, 0x0C0, 0x0FF, 0x111, 0x3FF, 0x500, 0xFFF], reservedOffset State.reset.params.nIn o)
    ∧ (LegalAccess (0x3FC : Addr).toNat .four ∧ reservedOffset State.reset.params.nIn (0x3FC : Addr).toNat)
    ∧ (LegalAccess (0x0FC : Addr).toNat .four ∧ reservedOffset State.reset.params.nIn (0x0FC : Addr).toNat) :=
  ⟨by decide, by decide, by unfold reservedOffset; decide, by unfold LegalAccess reservedOffset; decide,
    by unfold LegalAccess reservedOffset; decide⟩

/-- HostWritesReachTheirRegisters: an idle core, and a legal write to a read-only register, to OUT_BUF and to the first
byte past IN_BUF. -/
theorem witness_HostWrites :
    State.reset.status.busy = false
    ∧ (∀ a ∈ [(0x014, AccessSize.four), (0x110, .one), (0x500, .four)],
      LegalAccess (BitVec.ofNat 12 a.1).toNat a.2 ∧ BitVec.ofNat 12 a.1 ≠ 0x004#12
        ∧ ¬ operandOffset State.reset.params.nIn (BitVec.ofNat 12 a.1).toNat) :=
  ⟨by decide, by unfold LegalAccess operandOffset; decide⟩

/-- InBufWritesReadBack and WordWriteIsFourByteWrites: the last word of IN_BUF, and its last byte. -/
theorem witness_InBufWrites :
    State.reset.params.Ok ∧ State.reset.status.busy = false
    ∧ (LegalAccess (0x4FC : Addr).toNat .four ∧ 0x400 ≤ (0x4FC : Addr).toNat
      ∧ (0x4FC : Addr).toNat < 0x400 + State.reset.params.nIn)
    ∧ (LegalAccess (0x4FF : Addr).toNat .one ∧ (0x4FF : Addr).toNat < 0x400 + State.reset.params.nIn)
    ∧ (252 % 4 = 0 ∧ 252 < State.reset.params.nIn) :=
  ⟨by decide, by decide, by unfold LegalAccess; decide, by unfold LegalAccess; decide, by decide⟩

/-- BusErrorChangesNothing: misaligned, wrongly sized, and the two kinds of legal access at their ends. -/
theorem witness_BusError :
    (0x401 : Addr).toNat % AccessSize.two.bytes ≠ 0 ∧ ((0x0FC : Addr).toNat < 0x100 ∧ AccessSize.two ≠ .four)
    ∧ ((0x100 : Addr).toNat % AccessSize.one.bytes = 0 ∧ 0x100 ≤ (0x100 : Addr).toNat)
    ∧ (0x0FC : Addr).toNat % AccessSize.four.bytes = 0 := by decide

/-- StepKeepsTheMemoryCanonical: the last byte of IN_BUF is written by the next step. -/
theorem witness_Canonical :
    ({ State.reset with schedule := [.write 0x4FF .one 0x5A] } : State).Canonical
    ∧ ∃ t, step { State.reset with schedule := [.write 0x4FF .one 0x5A] } = .next t
      ∧ decide (t.inBuf = [(255, 0x5A#8)]) = true :=
  ⟨canonical_of _ (by decide), next_of_after (by decide)⟩

/-- StepKeepsNavExtended and StepKeepsOutFramed: the reset state with F1 being decoded, and with a frame being built. -/
theorem witness_NavAndOut :
    decoding.NavExtended ∧ (∃ t, step decoding = .next t ∧ t.status.navValid = true)
    ∧ (inFlight 0x6).OutFramed ∧ ∃ t, step (inFlight 0x6) = .next t ∧ decide (t.outLen = 17#8) = true :=
  ⟨⟨by decide +kernel, fun _ => by decide +kernel⟩, next_of_after (by decide +kernel), .inl ⟨rfl, rfl⟩,
    next_of_after (by decide +kernel)⟩

/-- ResetMeetsTheInvariant: the smallest and the largest capacity. -/
theorem witness_Params : Config.Params.Ok { nIn := 100, nmeaKey := 0, rateKeyDefault := 0 }
    ∧ Config.Params.Ok { nIn := 1024, nmeaKey := 0, rateKeyDefault := 0 } := by decide

/-- NavChangesOnlyByAcceptedDecode and NavValidIsSetByAcceptedDecode: NAV and NAV_VALID change by the engine's turn; and
by reset. -/
theorem witness_NavChanges :
    (∃ t, perform .engine decoding = .next t
      ∧ (decide (t.nav ≠ decoding.nav) && t.status.pass && t.status.navValid && !decoding.status.navValid) = true)
    ∧ (decoding.pending = some 0x4#32 ∧ decode 0x4#32 = .instr .ubxDecode)
    ∧ (∃ t, perform .engine { inFlight 0 with status := (inFlight 0).status.withNavValid } = .next t
      ∧ t.status.navValid = true)
    ∧ ∃ t, perform .reset { State.reset with nav := Vector.replicate 32 1#32 } = .next t
      ∧ decide (t.nav ≠ Vector.replicate 32 1#32) = true :=
  ⟨next_of_after (by decide +kernel), by decide, next_of_after (by decide), next_of_after (by decide +kernel)⟩

/-- ResultRegistersHaveOneWriter: each result register is changed by an engine's turn. -/
theorem witness_ResultRegisters :
    (∃ t, perform .engine (busyWith 0x1 (withRange (withFrame [1, 2, 3, 4]) 0 4)) = .next t
      ∧ decide (t.ckResult ≠ { a := 0, b := 0 }) = true)
    ∧ (∃ t, perform .engine (busyWith 0x00000065 (withFrame [1, 2, 3, 4])) = .next t
      ∧ decide (t.extData ≠ 0#32) = true)
    ∧ (∃ t, perform .engine (busyWith 0x3 (withFrame emptyPvt)) = .next t
      ∧ decide (t.frameInfo ≠ { cls := 0, id := 0, len := 0 }) = true)
    ∧ ∃ t, perform .engine (inFlight 0x6) = .next t ∧ decide (t.outLen ≠ 0#8) = true :=
  ⟨next_of_after (by decide +kernel), next_of_after (by decide +kernel), next_of_after (by decide +kernel),
    next_of_after (by decide +kernel)⟩

/-- OperandsAreWrittenOnlyByTheHost: each operand register and the last byte of IN_BUF, changed by a host write. -/
theorem witness_OperandWrites :
    (∃ t, perform (.write 0x008 .four 1) State.reset = .next t ∧ decide (t.inSize ≠ 0#16) = true)
    ∧ (∃ t, perform (.write 0x00C .four 1) State.reset = .next t ∧ decide (t.ckStart ≠ 0#16) = true)
    ∧ (∃ t, perform (.write 0x010 .four 1) State.reset = .next t ∧ decide (t.ckEnd ≠ 0#16) = true)
    ∧ (∃ t, perform (.write 0x020 .four 1) State.reset = .next t ∧ decide (t.keyRate ≠ State.reset.keyRate) = true)
    ∧ ∃ t, perform (.write 0x4FF .one 1) State.reset = .next t ∧ decide (t.inBuf ≠ State.reset.inBuf) = true :=
  ⟨next_of_after (by decide), next_of_after (by decide), next_of_after (by decide), next_of_after (by decide),
    next_of_after (by decide)⟩

/-- BytesBeyondInSizeNeverMatter: another memory that agrees on the four bytes inside IN_SIZE; and IN_SIZE past the
capacity, where no byte need agree. -/
theorem witness_BytesBeyond :
    (∀ k, k < (withFrame [1, 2, 3, 4]).inSize.toNat →
      ({ withFrame [1, 2, 3, 4] with inBuf := cells 0 [1, 2, 3, 4, 0xAA], draws := 9 } : State).inByte k
        = (withFrame [1, 2, 3, 4]).inByte k)
    ∧ ¬ ({ State.reset with inSize := 257 } : State).inSize.toNat ≤ State.reset.params.nIn :=
  ⟨by decide, by decide⟩

/-- WriteAndCompletionInEitherOrder. -/
theorem witness_WriteAndCompletion : decoding.Handshake ∧ decoding.pending = some 0x4#32 :=
  ⟨handshake_of _ (by decide), by decide⟩

/-- OneByteAlwaysChangesCkA: the first and the last byte of a range, really changed. -/
theorem witness_OneByte : (2 ≤ 2 ∧ 2 < 98) ∧ (2 ≤ 97 ∧ 97 < 98) ∧ 0xF8#8 ≠ (withFrame f1).inByte 30 := by
  decide +kernel

/-- BuiltFramesRoundTrip: a state that holds the frame that cfg.rate 5 leaves in OUT_BUF. -/
theorem witness_BuiltFrames :
    (∃ u, exec (.cfgRate 5) State.reset = .next u
      ∧ decide (∀ k : Fin 17, (withFrame rateFrame).inByte k = u.outBuf[k]) = true)
    ∧ (withFrame rateFrame).inSize = 17#16 ∧ (withFrame rateFrame).params.Ok :=
  ⟨next_of_after (by decide +kernel), by decide, by decide⟩

/-- ExtPvtGivesTheNavRegister. -/
theorem witness_ExtPvt : ∃ t, exec .ubxDecode (withFrame f1) = .next t ∧ t.status.pass = true :=
  next_of_after (by decide +kernel)

end Sys2Proof.Machine
end

section
/-! PROOFS. The statements of spec/10_state.md: operands frozen while BUSY, OVR, KEY_NMEA, NAV_VALID and reset, with the
rules they are assembled from: what a host write and a completion leave of the parameters, the operands and STATUS. -/

namespace Sys2Proof.Machine

/-! ### STATUS and host writes -/

/-- A host write to STATUS as one update of OVR (R24, R30). -/
theorem Status.hostWrite_eq (st : Status) (v : Word) :
    st.hostWrite v = { st with ovr := st.ovr && !v.getLsbD 8 } := by
  unfold Status.hostWrite
  split <;> simp_all

/-- STATUS stands outside the operands, whatever the capacity (R44). -/
theorem not_operandOffset_status (nIn : Nat) : ¬ operandOffset nIn 0x004 := by
  unfold operandOffset
  omega

/-- A legal read answers the bytes it covers, whatever BUSY is (R44, R63). -/
theorem memRead_legal (addr : Addr) (n : AccessSize) (s : State) (hl : LegalAccess addr.toNat n) :
    memRead addr n s = some (composeLE s.byteAt addr.toNat n.bytes) := by
  simp [memRead, isBusError_false _ _ hl]

/-- While BUSY a legal write to an operand only sets OVR (R44). -/
theorem memWrite_dropped (addr : Addr) (n : AccessSize) (v : Word) (s : State) (hl : LegalAccess addr.toNat n)
    (hb : s.status.busy = true) (ho : operandOffset s.params.nIn addr.toNat) :
    memWrite addr n v s = some { s with status := s.status.overrun } := by
  simp [memWrite, isBusError_false _ _ hl, hb, (droppedWhileBusy_iff _ _).mpr ho]

/-- A taken write outside the operands reaches STATUS or nothing (R64). -/
theorem writeTarget_of_not_operand (nIn a : Nat) (n : AccessSize) (v : Word) (s : State)
    (ho : ¬ operandOffset nIn a) :
    writeTarget (target nIn a) n v s = if a = 0x004 then { s with status := s.status.hostWrite v } else s := by
  by_cases ha : a = 0x004
  · subst ha
    simp [target, writeTarget]
  · rw [target_other nIn a ha ho, if_neg ha]
    rfl

/-- A write to STATUS is never dropped (R44). -/
theorem memWrite_status (n : AccessSize) (v : Word) (s : State) (hl : LegalAccess 0x004 n) :
    memWrite 0x004 n v s = some { s with status := s.status.hostWrite v } := by
  have ho := not_operandOffset_status s.params.nIn
  rw [memWrite_taken s 0x004 n v hl fun h => ho h.2]
  exact congrArg some (writeTarget_of_not_operand _ _ n v s ho)

@[simp] theorem writeTarget_params (g : Target) (n : AccessSize) (v : Word) (s : State) :
    (writeTarget g n v s).params = s.params := by
  cases g <;> rfl

@[simp] theorem writeTarget_navValid (g : Target) (n : AccessSize) (v : Word) (s : State) :
    (writeTarget g n v s).status.navValid = s.status.navValid := by
  cases g <;> simp [writeTarget]

/-- OVR after a taken write: only STATUS reaches it (R30). -/
theorem writeTarget_ovr (g : Target) (n : AccessSize) (v : Word) (s : State) :
    (writeTarget g n v s).status.ovr = if g = .status then s.status.ovr && !v.getLsbD 8 else s.status.ovr := by
  cases g <;> simp [writeTarget]

theorem target_eq_status_iff (nIn a : Nat) : target nIn a = .status ↔ a = 0x004 := by
  unfold target
  split_ifs <;> simp_all

/-! ### What a completion leaves -/

theorem Accepted.operandsKept {s t : State} {i : Instr} (h : Accepted s i t) : OperandsKept s t := by
  cases h <;> exact ⟨rfl, rfl, rfl, rfl, rfl, rfl, rfl⟩

theorem Rejected.operandsKept {s t : State} {i : Instr} (h : Rejected s i t) : OperandsKept s t := by
  cases h <;> exact ⟨rfl, rfl, rfl, rfl, rfl, rfl, rfl⟩

/-- An accepted command leaves STATUS passed, and ubx.decode alone sets NAV_VALID besides (R28, R45). -/
theorem Accepted.status_eq {s t : State} {i : Instr} (h : Accepted s i t) :
    t.status = if i = .ubxDecode then s.status.withNavValid.passed else s.status.passed := by
  cases h <;> rfl

theorem Rejected.status_eq {s t : State} {i : Instr} (h : Rejected s i t) : ∃ c, t.status = s.status.rejected c := by
  cases h <;> exact ⟨_, rfl⟩

/-- What the engine's turn does to STATUS and the operands: nothing, or the completion of the pending command, whose
STATUS is that of an accepted or of a rejected command and which never writes an operand. -/
theorem engineTurn_status_cases {s t : State} (h : engineTurn s = .next t) :
    (s.pending = none ∧ t = s) ∨
    ∃ w, s.pending = some w ∧ OperandsKept s t ∧
      ((∃ i, decode w = .instr i ∧
          t.status = if i = .ubxDecode then s.status.withNavValid.passed else s.status.passed) ∨
        ∃ c, t.status = s.status.rejected c) := by
  cases hp : s.pending with
  | none =>
    rw [engineTurn_idle s hp] at h
    cases h
    exact .inl ⟨rfl, rfl⟩
  | some w =>
    refine .inr ⟨w, rfl, ?_⟩
    rcases engineTurn_cases s w hp with ⟨i, u, hd, -, hu, hacc | hrej⟩ | ⟨-, -, hu⟩ <;> rw [hu] at h <;> cases h
    · exact ⟨hacc.operandsKept, .inl ⟨i, hd, hacc.status_eq⟩⟩
    · exact ⟨hrej.operandsKept, .inr hrej.status_eq⟩
    · exact ⟨⟨rfl, rfl, rfl, rfl, rfl, rfl, rfl⟩, .inr ⟨_, rfl⟩⟩

theorem engineTurn_ovr {s t : State} (h : engineTurn s = .next t) : t.status.ovr = s.status.ovr := by
  rcases engineTurn_status_cases h with ⟨-, rfl⟩ | ⟨w, -, -, ⟨i, -, hst⟩ | ⟨c, hst⟩⟩
  · rfl
  · rw [hst]
    split <;> rfl
  · rw [hst, Status.rejected_ovr]

/-! ### The operands are frozen while BUSY (R44) -/

/-- While BUSY a host event keeps the operands, PENDING and BUSY. -/
theorem perform_host_busy_frame {s t : State} {e : Event} (hb : s.status.busy = true) (he : e ≠ .engine)
    (hr : e ≠ .reset) (h : perform e s = .next t) :
    OperandsKept s t ∧ t.pending = s.pending ∧ t.status.busy = true := by
  rcases perform_host_cases s t e h he hr with ⟨ht, -⟩ | ⟨addr, n, v, -, -, ⟨-, -, rfl⟩ | ⟨ho, rfl⟩⟩
  · obtain ⟨p, rfl⟩ : ∃ p, t = { s with port := p } := ⟨_, ht⟩
    exact ⟨⟨rfl, rfl, rfl, rfl, rfl, rfl, rfl⟩, rfl, hb⟩
  · exact ⟨⟨rfl, rfl, rfl, rfl, rfl, rfl, rfl⟩, rfl, hb⟩
  · rw [writeTarget_of_not_operand _ _ n v s fun h => ho ⟨hb, h⟩]
    split
    · exact ⟨⟨rfl, rfl, rfl, rfl, rfl, rfl, rfl⟩, rfl, by simp [hb]⟩
    · exact ⟨⟨rfl, rfl, rfl, rfl, rfl, rfl, rfl⟩, rfl, hb⟩

/-- Settles O10: a write while BUSY reaches STATUS or nothing, so only OVR can change. -/
theorem operandsAreFrozenWhileBusy : Obligations.OperandsAreFrozenWhileBusy := by
  refine ⟨fun s addr n v hb hl => ⟨fun ho => memWrite_dropped addr n v s hl hb ho, ?_, memRead_legal addr n s hl⟩,
    fun s t e hb he hr h => perform_host_busy_frame hb he hr h⟩
  rintro rfl
  rw [memWrite_status n v s hl, Status.hostWrite_eq]

/-! ### OVR (R30) -/

/-- A write that is no BusError is answered as written, over its effect (R64). -/
theorem hostWrite_of_memWrite {addr : Addr} {n : AccessSize} {v : Word} {s t : State}
    (h : memWrite addr n v s = some t) : hostWrite addr n v s = { t with port := .written } := by
  simp only [hostWrite, h]

theorem hostWrite_ovr_of_dropped (addr : Addr) (n : AccessSize) (v : Word) (s : State)
    (hl : LegalAccess addr.toNat n) (hd : s.status.busy = true ∧ operandOffset s.params.nIn addr.toNat) :
    (hostWrite addr n v s).status.ovr = true := by
  simp [hostWrite_of_memWrite (memWrite_dropped addr n v s hl hd.1 hd.2)]

theorem hostWrite_ovr_of_status (n : AccessSize) (v : Word) (s : State) (hl : LegalAccess 0x004 n) :
    (hostWrite 0x004 n v s).status.ovr = (s.status.ovr && !v.getLsbD 8) := by
  rw [hostWrite_of_memWrite (memWrite_status n v s hl), Status.hostWrite_ovr]

/-- A BusError, and a taken write elsewhere than STATUS, leave OVR. -/
theorem hostWrite_ovr_of_other (addr : Addr) (n : AccessSize) (v : Word) (s : State)
    (h : ¬ LegalAccess addr.toNat n ∨
      (addr ≠ 0x004 ∧ ¬ (s.status.busy = true ∧ operandOffset s.params.nIn addr.toNat))) :
    (hostWrite addr n v s).status.ovr = s.status.ovr := by
  rcases hostWrite_cases addr n v s with ⟨-, hw⟩ | ⟨hl, hb, ho, -⟩ | ⟨hl, -, hw⟩
  · rw [hw]
  · exact (h.elim (· hl) (·.2 ⟨hb, ho⟩)).elim
  · have ha : addr.toNat ≠ 0x004 := fun ha => (h.resolve_left (· hl)).1 (BitVec.eq_of_toNat_eq ha)
    rw [hw, writeTarget_ovr, if_neg (mt (target_eq_status_iff _ _).mp ha)]

/-- Settles O11, event by event: reads and completions leave OVR, and a write does what the three rules above say. -/
theorem ovrIsStickyUntilWrittenOne : Obligations.OvrIsStickyUntilWrittenOne := by
  intro s t e hr h
  cases e with
  | reset => exact absurd rfl hr
  | engine => exact ⟨by simp, fun _ => engineTurn_ovr h⟩
  | read addr n =>
    cases h
    refine ⟨by simp, fun _ => ?_⟩
    rcases hostRead_cases addr n s with ⟨-, hh⟩ | ⟨-, hh⟩ <;> rw [hh]
  | write addr n v =>
    cases h
    refine ⟨?_, fun hother => hostWrite_ovr_of_other addr n v s (hother addr n v rfl)⟩
    rintro _ _ _ ⟨⟩ hl
    refine ⟨hostWrite_ovr_of_dropped addr n v s hl, ?_⟩
    rintro rfl
    exact hostWrite_ovr_of_status n v s hl

/-! ### KEY_NMEA (R38) -/

/-- No event changes the parameters. -/
theorem perform_params {s t : State} {e : Event} (h : perform e s = .next t) : t.params = s.params := by
  by_cases hr : e = .reset
  · subst hr
    cases h
    exact resetEvent_params s
  by_cases he : e = .engine
  · subst he
    rcases engineTurn_status_cases h with ⟨-, rfl⟩ | ⟨w, -, hk, -⟩
    · rfl
    · exact hk.params
  rcases perform_host_cases s t e h he hr with ⟨ht, -⟩ | ⟨addr, n, v, -, -, ⟨-, -, rfl⟩ | ⟨-, rfl⟩⟩
  · rw [ht]
  · rfl
  · exact writeTarget_params _ n v s

theorem step_params {s t : State} (h : step s = .next t) : t.params = s.params := by
  obtain ⟨e, rest, hs, -⟩ := step_eq s
  exact perform_params (s := { s with schedule := rest }) (hs ▸ h)

/-- Bytes 10 to 13 of a built frame are its key, low byte first (R240). -/
theorem build_key (key : Word) (value : Byte) :
    [(build key value)[13], (build key value)[12], (build key value)[11], (build key value)[10]] =
      [byteOf key 3, byteOf key 2, byteOf key 1, byteOf key 0] := rfl

/-- Settles O42: 0x024 is the register of NMEA_KEY, no write's target, and no event writes the parameters. -/
theorem keyNmeaIsConstant : Obligations.KeyNmeaIsConstant := by
  refine ⟨fun s => memRead_register s 0x024 (by decide) (by decide), fun s v => ?_, fun s t => step_params, ?_⟩
  · have ho : ¬ operandOffset s.params.nIn (0x024 : Addr).toNat := by
      simp [operandOffset]
    rw [memWrite_taken s 0x024 .four v ⟨by decide, fun _ => rfl⟩ fun h => ho h.2,
      target_other _ _ (by decide) ho]
    rfl
  · rintro s t ⟨⟩
    exact build_key s.params.nmeaKey Config.nmeaOffValue

/-! ### NAV_VALID (R28) -/

/-- A host event leaves NAV_VALID. -/
theorem perform_host_navValid {s t : State} {e : Event} (he : e ≠ .engine) (hr : e ≠ .reset)
    (h : perform e s = .next t) : t.status.navValid = s.status.navValid := by
  rcases perform_host_cases s t e h he hr with ⟨ht, -⟩ | ⟨addr, n, v, -, -, ⟨-, -, rfl⟩ | ⟨-, rfl⟩⟩
  · rw [ht]
  · rfl
  · exact writeTarget_navValid _ n v s

/-- The engine's turn leaves NAV_VALID, or is the completion of an accepted ubx.decode, which sets it. -/
theorem engineTurn_navValid_cases {s t : State} (h : engineTurn s = .next t) :
    (t.status.navValid = s.status.navValid ∧
      ∀ w, s.pending = some w → decode w = .instr .ubxDecode → t.status.pass = false) ∨
    ((∃ w, s.pending = some w ∧ decode w = .instr .ubxDecode) ∧ t.status.pass = true ∧
      t.status.navValid = true) := by
  rcases engineTurn_status_cases h with ⟨hp, rfl⟩ | ⟨w, hw, -, ⟨i, hd, hst⟩ | ⟨c, hst⟩⟩
  · exact .inl ⟨rfl, by simp [hp]⟩
  · by_cases hi : i = .ubxDecode
    · exact .inr ⟨⟨w, hw, hi ▸ hd⟩, by simp [hst, hi], by simp [hst, hi]⟩
    · refine .inl ⟨by simp [hst, hi], fun w' hw' hd' => ?_⟩
      obtain rfl : w = w' := Option.some.inj (hw.symm.trans hw')
      exact absurd (Decoded.instr.inj (hd.symm.trans hd')) hi
  · exact .inl ⟨by simp [hst], by simp [hst]⟩

/-- Settles O50, from what each agent's event does to NAV_VALID. -/
theorem navValidIsSetByAcceptedDecode : Obligations.NavValidIsSetByAcceptedDecode := by
  refine ⟨rfl, fun s t e h => ?_⟩
  by_cases hr : e = .reset
  · subst hr
    cases h
    simp [Status.zero]
  by_cases he : e = .engine
  · subst he
    rcases engineTurn_navValid_cases h with ⟨hkept, hpass⟩ | ⟨hdec, hpass, hset⟩
    · refine ⟨by simp, fun _ w hw hd ht => ?_, fun hs _ => hkept.trans hs, fun hs ht => ?_⟩
      · simp [hpass w hw hd] at ht
      · simp [hkept, hs] at ht
    · exact ⟨by simp, fun _ _ _ _ _ => hset, fun _ _ => hset, fun _ _ => ⟨rfl, hdec, hpass⟩⟩
  · have hkept := perform_host_navValid he hr h
    exact ⟨(absurd · hr), (absurd · he), fun hs _ => hkept.trans hs, fun hs ht => by simp [hkept, hs] at ht⟩

/-! ### Reset (R47) -/

@[simp] theorem Status.zero_toWord : Status.zero.toWord = 0#32 := by decide

/-- The reset values hold for any parameters, draw and schedule. -/
theorem resetWith_resetValues (p : Config.Params) (n : Nat) (schedule : List Event) :
    ({ State.resetWith p n with schedule := schedule } : State).ResetValues where
  status := rfl
  status_reads := (memRead_register _ 0x004 (by decide) (by decide)).trans (congrArg some Status.zero_toWord)
  pending := rfl
  inSize := rfl
  ckStart := rfl
  ckEnd := rfl
  ckResult := rfl
  extData := rfl
  outLen := rfl
  frameInfo := rfl
  keyRate := rfl
  keyNmea_reads := memRead_register _ 0x024 (by decide) (by decide)
  nav k := by simp [State.resetWith]
  outBuf k := by simp [State.resetWith]

/-- Settles O43: the reset event and the first state both are `State.resetWith` up to the schedule. -/
theorem resetSetsEveryRegister : Obligations.ResetSetsEveryRegister :=
  ⟨fun s => ⟨resetEvent s, rfl, resetWith_resetValues s.params (s.draws + 1) s.schedule, rfl⟩,
    resetWith_resetValues Config.Params.reference 0 []⟩

end Sys2Proof.Machine
end

section
/-! PROOFS. The statements of spec/20_memory.md: reserved locations and bits of the window (R62), and that no command
depends on a byte of IN_BUF outside IN_SIZE (R73), with what an exchange of IN_BUF leaves of every operation. -/

namespace Sys2Proof.Machine

/-! ### Bytes and bits that hold nothing -/

/-- A word whose bits from `8k` on are 0 has byte `k` 0. -/
theorem byteOf_eq_zero (v : Word) (k : Nat) (h : ∀ i, 8 * k ≤ i → v.getLsbD i = false) : byteOf v k = 0#8 := by
  apply BitVec.eq_of_getLsbD_eq
  intro j _
  simp [byteOf, h (8 * k + j) (by omega)]

/-- A register narrower than its word reads 0 above its field. -/
theorem byteOf_setWidth_high {n : Nat} (x : BitVec n) (k : Nat) (h : n ≤ 8 * k) : byteOf (x.setWidth 32) k = 0#8 :=
  byteOf_eq_zero _ k fun i hi => by simp [BitVec.getLsbD_of_ge x i (by omega)]

/-- Bits 31:9 of STATUS read 0 (R24). -/
theorem Status.toWord_getLsbD_high (st : Status) (i : Nat) (h : 9 ≤ i) : st.toWord.getLsbD i = false := by
  simp only [Status.toWord, BitVec.getLsbD_append]
  iterate 6 rw [if_neg (by omega)]
  exact BitVec.getLsbD_zero

/-- Of byte 1 of STATUS only OVR, its bit 0, can be set. -/
theorem Status.toWord_byte_one (st : Status) : byteOf st.toWord 1 &&& 0xFE#8 = 0#8 := by
  apply BitVec.eq_of_getLsbD_eq
  intro j hj
  cases j with
  | zero => simp
  | succ j => simp [byteOf, st.toWord_getLsbD_high (8 * 1 + (j + 1)) (by omega)]

/-- CK_RESULT is the 16-bit pair, zero-extended (R34). -/
theorem CkResult.word_eq_setWidth (b a : Byte) : 0#16 ++ b ++ a = (b ++ a).setWidth 32 := by
  apply BitVec.eq_of_getLsbD_eq
  intro i hi
  simp
  grind

/-- A composition of zero bytes is 0. -/
theorem composeLE_of_zero (rd : Nat → Byte) (i n : Nat) (h : ∀ k, k < n → rd (i + k) = 0#8) :
    composeLE rd i n = 0#32 := by
  induction n with
  | zero => rfl
  | succ n ih => simp [composeLE, ih fun k hk => h k (by omega), h n (by omega)]

/-! ### Reserved locations (R62) -/

theorem State.byteAt_register (s : State) (o : Nat) (h : o < 0x100) :
    s.byteAt o = byteOf (s.regAt (o - o % 4)) (o % 4) := if_pos h

/-- No register stands in the two gaps of the register map (R22). -/
theorem State.regAt_reserved (s : State) (a : Nat) (h : (0x02C ≤ a ∧ a < 0x040) ∨ 0x0C0 ≤ a) :
    s.regAt a = 0#32 := by
  unfold State.regAt
  repeat rw [if_neg (by omega)]

theorem State.byteAt_reserved (s : State) (o : Nat) (h : reservedOffset s.params.nIn o) : s.byteAt o = 0#8 := by
  unfold reservedOffset at h
  by_cases ho : o < 0x100
  · rw [s.byteAt_register o ho, s.regAt_reserved _ (by omega)]
    exact byteOf_eq_zero _ _ (by simp)
  · rw [State.byteAt, if_neg ho, if_neg (by omega), if_neg (by omega)]

theorem reservedOffset.not_operand {nIn o : Nat} (h : reservedOffset nIn o) : ¬ operandOffset nIn o := by
  unfold reservedOffset at h
  unfold operandOffset
  omega

/-- The reserved regions end at multiples of 4, so a legal access that begins in one stays in it. -/
theorem reservedOffset.add {nIn : Nat} {addr : Addr} {n : AccessSize} (h : reservedOffset nIn addr.toNat)
    (hn : nIn % 4 = 0) (hl : LegalAccess addr.toNat n) {k : Nat} (hk : k < n.bytes) :
    reservedOffset nIn (addr.toNat + k) := by
  have hlt := addr.isLt
  obtain ⟨haligned, -⟩ := hl
  unfold reservedOffset at *
  cases n <;> simp only [AccessSize.bytes] at haligned hk <;> omega

theorem memRead_reserved (s : State) (addr : Addr) (n : AccessSize) (hn : s.params.nIn % 4 = 0)
    (hl : LegalAccess addr.toNat n) (h : reservedOffset s.params.nIn addr.toNat) : memRead addr n s = some 0#32 := by
  rw [memRead_legal addr n s hl, composeLE_of_zero _ _ _ fun k hk => s.byteAt_reserved _ (h.add hn hl hk)]

/-- A write to a reserved offset has no target, so it has no effect and is never dropped. -/
theorem memWrite_reserved (s : State) (addr : Addr) (n : AccessSize) (v : Word) (hl : LegalAccess addr.toNat n)
    (h : reservedOffset s.params.nIn addr.toNat) : memWrite addr n v s = some s := by
  have hstatus : addr.toNat ≠ 0x004 := by
    unfold reservedOffset at h
    omega
  rw [memWrite_taken s addr n v hl fun hd => h.not_operand hd.2, writeTarget_of_not_operand _ _ n v s h.not_operand,
    if_neg hstatus]

/-! ### Reserved bits of the registers (R62) -/

/-- The bytes of the window that stand wholly above the fields of STATUS, IN_SIZE, CK_START, CK_END, CK_RESULT and
OUT_LEN. -/
theorem State.byteAt_reserved_bits (s : State) :
    ∀ o ∈ [0x00A, 0x00B, 0x00E, 0x00F, 0x012, 0x013, 0x016, 0x017, 0x01D, 0x01E, 0x01F, 0x006, 0x007],
      s.byteAt o = 0#8 := by
  have hhalf (x : Half) (k : Nat) (hk : 2 ≤ k) : byteOf (x.setWidth 32) k = 0#8 := byteOf_setWidth_high x k (by omega)
  have hck (k : Nat) (hk : 2 ≤ k) : byteOf (0#16 ++ s.ckResult.b ++ s.ckResult.a) k = 0#8 :=
    CkResult.word_eq_setWidth _ _ ▸ hhalf _ k hk
  have hlen (k : Nat) (hk : 1 ≤ k) : byteOf (s.outLen.setWidth 32) k = 0#8 := byteOf_setWidth_high _ k (by omega)
  have hstatus (k : Nat) (hk : 2 ≤ k) : byteOf s.status.toWord k = 0#8 :=
    byteOf_eq_zero _ k fun i hi => s.status.toWord_getLsbD_high i (by omega)
  simp only [List.forall_mem_cons]
  exact ⟨hhalf s.inSize 2 (by decide), hhalf s.inSize 3 (by decide), hhalf s.ckStart 2 (by decide),
    hhalf s.ckStart 3 (by decide), hhalf s.ckEnd 2 (by decide), hhalf s.ckEnd 3 (by decide), hck 2 (by decide),
    hck 3 (by decide), hlen 1 (by decide), hlen 2 (by decide), hlen 3 (by decide), hstatus 2 (by decide),
    hstatus 3 (by decide), by simp⟩

/-- A 16-bit operand register takes bits 15:0 of a write alone (R64). -/
theorem writeTarget_half (g : Target) (h : g = .inSize ∨ g = .ckStart ∨ g = .ckEnd) (n : AccessSize) (v : Word)
    (s : State) : writeTarget g n v s = writeTarget g n (v &&& 0xFFFF#32) s := by
  have hlow : (v &&& 0xFFFF#32).setWidth 16 = v.setWidth 16 := by
    rw [BitVec.setWidth_and]
    exact BitVec.and_allOnes
  rcases h with rfl | rfl | rfl <;> simp only [writeTarget, hlow]

theorem memWrite_half (s : State) (addr : Addr) (v : Word) (hb : s.status.busy = false)
    (hl : LegalAccess addr.toNat .four)
    (h : target s.params.nIn addr.toNat = .inSize ∨ target s.params.nIn addr.toNat = .ckStart ∨
      target s.params.nIn addr.toNat = .ckEnd) :
    memWrite addr .four v s = memWrite addr .four (v &&& 0xFFFF#32) s := by
  have hidle : ¬ (s.status.busy = true ∧ operandOffset s.params.nIn addr.toNat) := by simp [hb]
  rw [memWrite_taken s addr .four _ hl hidle, memWrite_taken s addr .four _ hl hidle,
    ← writeTarget_half _ h]

/-- Settles O37: the reserved regions hold no register and no buffer byte, and are no write's target; the fields of the
registers are narrower than their words, in reads and in writes. -/
theorem reservedLocationsReadZero : Obligations.ReservedLocationsReadZero := by
  rintro s ⟨-, -, hn⟩
  refine ⟨s.byteAt_reserved,
    fun addr n v hl h => ⟨memWrite_reserved s addr n v hl h, memRead_reserved s addr n hn hl h⟩,
    s.byteAt_reserved_bits, s.status.toWord_byte_one, fun v hb => ?_, fun v => ?_⟩
  · have hl (a : Addr) (ha : a.toNat % 4 = 0) : LegalAccess a.toNat .four := ⟨ha, fun _ => rfl⟩
    exact ⟨memWrite_half s _ v hb (hl _ rfl) (.inl rfl), memWrite_half s _ v hb (hl _ rfl) (.inr (.inl rfl)),
      memWrite_half s _ v hb (hl _ rfl) (.inr (.inr rfl))⟩
  · have hl : LegalAccess 0x004 .four := ⟨by decide, fun _ => rfl⟩
    rw [memWrite_status .four _ s hl, memWrite_status .four _ s hl, Status.hostWrite_eq, Status.hostWrite_eq]
    simp

/-! ### The commands that read a range, case by case (R121, R122, R140) -/

theorem validate_beyond_capacity (s : State) (h : s.params.nIn < s.inSize.toNat) : validate s = .range := if_pos h

theorem validate_short (s : State) (hcap : s.inSize.toNat ≤ s.params.nIn) (h : s.inSize.toNat < Config.minFrame) :
    validate s = .tooShort := by
  rw [validate, if_neg (Nat.not_lt.mpr hcap), if_pos h]

/-- ck.compute rejects when IN_SIZE is beyond the capacity, or a range that is not empty runs past IN_SIZE (R121). -/
theorem execCkCompute_rejected (s : State) (h : s.params.nIn < s.inSize.toNat ∨
    (s.ckStart.toNat < s.ckEnd.toNat ∧ s.inSize.toNat < s.ckEnd.toNat)) :
    execCkCompute s = .next (reject .range s) := by
  unfold execCkCompute
  grind

theorem execCkCompute_accepted (s : State) (hcap : s.inSize.toNat ≤ s.params.nIn)
    (h : s.ckEnd.toNat ≤ s.ckStart.toNat ∨ s.ckEnd.toNat ≤ s.inSize.toNat) :
    execCkCompute s = .next (accept { s with
      ckResult := { a := (fletcher s s.ckStart.toNat s.ckEnd.toNat).1
                    b := (fletcher s s.ckStart.toNat s.ckEnd.toNat).2 } }) := by
  unfold execCkCompute
  grind

theorem execCkVerify_beyond_capacity (s : State) (h : s.params.nIn < s.inSize.toNat) :
    execCkVerify s = .next (reject .range s) := if_pos h

theorem execCkVerify_short (s : State) (hcap : s.inSize.toNat ≤ s.params.nIn) (h : s.inSize.toNat < 4) :
    execCkVerify s = .next (reject .tooShort s) := by
  rw [execCkVerify, if_neg (Nat.not_lt.mpr hcap), if_pos h]

theorem execCkVerify_checked (s : State) (hcap : s.inSize.toNat ≤ s.params.nIn) (h : 4 ≤ s.inSize.toNat) :
    execCkVerify s = .next (if checksumMatches s then accept s else reject .badChecksum s) := by
  rw [execCkVerify, if_neg (Nat.not_lt.mpr hcap), if_neg (Nat.not_lt.mpr h), apply_ite Host.Outcome.next]

/-! ### Another IN_BUF under the same machine (R73) -/

/-- `s` with another IN_BUF: other written bytes and another draw of the unwritten ones. -/
def State.withInBuf (s : State) (m : Memory) (d : Nat) : State := { s with inBuf := m, draws := d }

/-- The other IN_BUF agrees with that of `s` below IN_SIZE. -/
def State.SameBelowInSize (s : State) (m : Memory) (d : Nat) : Prop :=
  ∀ k, k < s.inSize.toNat → (s.withInBuf m d).inByte k = s.inByte k

/-- The premise of R73's statement: agreement below IN_SIZE, asked for only when IN_SIZE lies inside the capacity. -/
def State.AgreesInside (s : State) (m : Memory) (d : Nat) : Prop :=
  s.inSize.toNat ≤ s.params.nIn → s.SameBelowInSize m d

/-- An outcome with the next state's IN_BUF exchanged. -/
def outcomeWithInBuf (m : Memory) (d : Nat) : Host.Outcome State Fault Refusal → Host.Outcome State Fault Refusal
  | .next t => .next (t.withInBuf m d)
  | .fault r => .fault r
  | .refused r => .refused r

@[simp] theorem State.withInBuf_inSize (s : State) (m : Memory) (d : Nat) : (s.withInBuf m d).inSize = s.inSize := rfl

@[simp] theorem outcomeWithInBuf_next (t : State) (m : Memory) (d : Nat) :
    outcomeWithInBuf m d (.next t) = .next (t.withInBuf m d) := rfl

/-- The range check reads no byte of IN_BUF (R161). -/
theorem extCheck_withInBuf (s : State) (m : Memory) (d off n : Nat) :
    extCheck (s.withInBuf m d) off n = extCheck s off n := rfl

/-! ### What the operations read, all of it inside IN_SIZE -/

section
variable {s : State} {m : Memory} {d : Nat}

/-- A field inside IN_SIZE is the same. -/
theorem le_withInBuf (h : s.SameBelowInSize m d) (i n : Nat) (hin : i + n ≤ s.inSize.toNat) :
    le (s.withInBuf m d) i n = le s i n :=
  composeLE_congr _ _ i n fun k hk => h (i + k) (by omega)

theorem extract_withInBuf (h : s.SameBelowInSize m d) (i n : Nat) (signed : Bool)
    (hin : i + n ≤ s.inSize.toNat) : extract (s.withInBuf m d) i n signed = extract s i n signed := by
  unfold extract
  rw [le_withInBuf h i n hin]

theorem headerOf_withInBuf (h : s.SameBelowInSize m d) (hsize : 8 ≤ s.inSize.toNat) :
    headerOf (s.withInBuf m d) = headerOf s := by
  unfold headerOf
  rw [h 2 (by omega), h 3 (by omega), le_withInBuf h 4 2 (by omega)]

/-- The trailing checksum and the bytes it covers stand below IN_SIZE. -/
theorem checksumMatches_withInBuf (h : s.SameBelowInSize m d) (hsize : 4 ≤ s.inSize.toNat) :
    checksumMatches (s.withInBuf m d) = checksumMatches s := by
  rw [Bool.eq_iff_iff, checksumMatches_iff, checksumMatches_iff, State.withInBuf_inSize,
    fletcher_congr s (s.withInBuf m d) _ _ fun k _ hk => h k (by omega), h _ (by omega), h _ (by omega)]

/-- The validator reads no byte before it has compared IN_SIZE with the capacity and with the minimum (R140). -/
theorem validate_withInBuf (h : s.AgreesInside m d) : validate (s.withInBuf m d) = validate s := by
  rcases Nat.lt_or_ge s.params.nIn s.inSize.toNat with hcap | hcap
  · rw [validate_beyond_capacity s hcap]
    exact validate_beyond_capacity _ hcap
  rcases Nat.lt_or_ge s.inSize.toNat Config.minFrame with hmin | hmin
  · rw [validate_short s hcap hmin]
    exact validate_short _ hcap hmin
  have hin := h hcap
  unfold Config.minFrame at hmin
  rw [validate, hin 0 (by omega), hin 1 (by omega), checksumMatches_withInBuf hin (by omega)]
  rfl

/-- Every field of the record lies in the 100 bytes of its frame (R180). -/
theorem navTable_inside :
    ∀ k : Fin 32, Config.hdrLen + navTable[k].payloadOff + navTable[k].bytes ≤ Config.pvtFrame := by
  decide

/-- The record is read only after IN_SIZE is known to hold the whole frame (R183, R184). -/
theorem pvtDecode_withInBuf (h : s.SameBelowInSize m d) (hsize : 8 ≤ s.inSize.toNat) :
    pvtDecode (s.withInBuf m d) = pvtDecode s := by
  have hcheck : pvtCheck (s.withInBuf m d) = pvtCheck s := by
    rw [pvtCheck, le_withInBuf h 4 2 (by omega)]
    rfl
  unfold pvtDecode
  rw [hcheck]
  by_cases hok : pvtCheck s = .ok
  · obtain ⟨-, hframe⟩ := (pvtCheck_ok s).mp hok
    have hnav : navValue (s.withInBuf m d) = navValue s := by
      funext k
      exact extract_withInBuf h _ _ _ ((navTable_inside k).trans hframe)
    rw [hnav]
  · simp only [if_neg hok]

theorem decodeValidated_withInBuf (h : s.SameBelowInSize m d) (hsize : 8 ≤ s.inSize.toNat) :
    decodeValidated (s.withInBuf m d) = (decodeValidated s).withInBuf m d := by
  unfold decodeValidated
  rw [h 2 (by omega), h 3 (by omega), pvtDecode_withInBuf h hsize]
  cases dispatch (s.inByte 2) (s.inByte 3) with
  | none => rfl
  | some decoder =>
    cases decoder
    cases pvtDecode s <;> rfl

/-! ### The commands under another IN_BUF -/

/-- ck.compute reads its range only where that is empty or ends inside IN_SIZE (R121). -/
theorem execCkCompute_withInBuf (h : s.AgreesInside m d) :
    execCkCompute (s.withInBuf m d) = outcomeWithInBuf m d (execCkCompute s) := by
  by_cases hrej : s.params.nIn < s.inSize.toNat ∨ (s.ckStart.toNat < s.ckEnd.toNat ∧ s.inSize.toNat < s.ckEnd.toNat)
  · rw [execCkCompute_rejected s hrej]
    exact execCkCompute_rejected _ hrej
  · have hcap : s.inSize.toNat ≤ s.params.nIn := by omega
    have hrange : s.ckEnd.toNat ≤ s.ckStart.toNat ∨ s.ckEnd.toNat ≤ s.inSize.toNat := by omega
    have hsame : fletcher (s.withInBuf m d) s.ckStart.toNat s.ckEnd.toNat = fletcher s s.ckStart.toNat s.ckEnd.toNat :=
      fletcher_congr s _ _ _ fun k _ _ => h hcap k (by omega)
    rw [execCkCompute_accepted s hcap hrange, ← hsame]
    exact execCkCompute_accepted _ hcap hrange

/-- ck.verify reads no byte before it has compared IN_SIZE with the capacity and with 4 (R122). -/
theorem execCkVerify_withInBuf (h : s.AgreesInside m d) :
    execCkVerify (s.withInBuf m d) = outcomeWithInBuf m d (execCkVerify s) := by
  rcases Nat.lt_or_ge s.params.nIn s.inSize.toNat with hcap | hcap
  · rw [execCkVerify_beyond_capacity s hcap]
    exact execCkVerify_beyond_capacity _ hcap
  rcases Nat.lt_or_ge s.inSize.toNat 4 with hmin | hmin
  · rw [execCkVerify_short s hcap hmin]
    exact execCkVerify_short _ hcap hmin
  rw [execCkVerify_checked s hcap hmin, execCkVerify_checked (s.withInBuf m d) hcap hmin,
    checksumMatches_withInBuf (h hcap) hmin, outcomeWithInBuf_next, apply_ite (State.withInBuf · m d)]
  rfl

theorem execFrameValidate_withInBuf (h : s.AgreesInside m d) :
    execFrameValidate (s.withInBuf m d) = outcomeWithInBuf m d (execFrameValidate s) := by
  unfold execFrameValidate
  rw [validate_withInBuf h]
  by_cases hv : validate s = .ok
  · obtain ⟨hcap, hsize, -⟩ := validate_ok s hv
    rw [if_pos hv, if_pos hv, headerOf_withInBuf (h hcap) hsize]
    rfl
  · rw [if_neg hv, if_neg hv]
    rfl

theorem execUbxDecode_withInBuf (h : s.AgreesInside m d) :
    execUbxDecode (s.withInBuf m d) = outcomeWithInBuf m d (execUbxDecode s) := by
  unfold execUbxDecode
  rw [validate_withInBuf h]
  by_cases hv : validate s = .ok
  · obtain ⟨hcap, hsize, -⟩ := validate_ok s hv
    rw [if_pos hv, if_pos hv, headerOf_withInBuf (h hcap) hsize]
    exact congrArg _ (decodeValidated_withInBuf (s := { s with frameInfo := headerOf s }) (h hcap) hsize)
  · rw [if_neg hv, if_neg hv]
    rfl

theorem extCommand_withInBuf (h : s.AgreesInside m d) (off n : Nat) (signed : Bool) :
    extCommand off n signed (s.withInBuf m d) = outcomeWithInBuf m d (extCommand off n signed s) := by
  unfold extCommand
  rw [extCheck_withInBuf]
  by_cases hc : extCheck s off n = .ok
  · obtain ⟨hcap, hin⟩ := (extCheck_ok s off n).mp hc
    rw [if_pos hc, if_pos hc, extract_withInBuf (h hcap) off n signed hin]
    rfl
  · rw [if_neg hc, if_neg hc]
    rfl

/-- Every command gives the same outcome under another IN_BUF that agrees inside IN_SIZE, up to IN_BUF itself. -/
theorem exec_withInBuf (h : s.AgreesInside m d) (i : Instr) :
    exec i (s.withInBuf m d) = outcomeWithInBuf m d (exec i s) := by
  cases i with
  | nop => rfl
  | ckCompute => exact execCkCompute_withInBuf h
  | ckVerify => exact execCkVerify_withInBuf h
  | frameValidate => exact execFrameValidate_withInBuf h
  | ubxDecode => exact execUbxDecode_withInBuf h
  | extU8 off => exact extCommand_withInBuf h off 1 false
  | extU16 off => exact extCommand_withInBuf h off 2 false
  | extU32 off => exact extCommand_withInBuf h off 4 false
  | extI8 off => exact extCommand_withInBuf h off 1 true
  | extI16 off => exact extCommand_withInBuf h off 2 true
  | extI32 off => exact extCommand_withInBuf h off 4 true
  | cfgNmeaOff => rfl
  | cfgRate rate => rfl

end

/-- Settles O53: a command completes, keeps its operands, and reads no byte that the other IN_BUF may change. -/
theorem bytesBeyondInSizeNeverMatter : Obligations.BytesBeyondInSizeNeverMatter := by
  intro i s m d h
  obtain ⟨t, ht, hcases⟩ := exec_cases i s
  have hkept : OperandsKept s t := hcases.elim Accepted.operandsKept Rejected.operandsKept
  exact ⟨t, ht, hkept.inBuf, (exec_withInBuf h i).trans (by rw [ht]; rfl)⟩

end Sys2Proof.Machine
end

section
/-! PROOFS. The statements of spec/30_encoding.md on the decoder and on CMD: a word as its six fields (R91), the commands
and the illegal words by those fields (R95, R96), the rows of the opcode table (R98), and a write to CMD (R90). -/

namespace Sys2Proof.Machine

open Laws.EncodedRow (row)

/-! ### The fields of a word (R91) -/

/-- A word is the concatenation of its six fields. -/
theorem append_fields (w : Word) :
    off16Field w ++ imm8Field w ++ r7Field w ++ signField w ++ widthField w ++ opField w = w := by
  simp only [off16Field, imm8Field, r7Field, signField, widthField, opField,
    BitVec.extractLsb'_append_extractLsb'_eq_extractLsb', BitVec.extractLsb'_eq_self]

theorem commandWord_fields (w : Word) (h : r7Field w = 0#1) :
    commandWord (off16Field w) (imm8Field w) (signField w) (widthField w) (opField w) = w := by
  conv_rhs => rw [← append_fields w, h]
  rfl

theorem word_eq_iff_fields (w v : Word) : w = v ↔
    off16Field w = off16Field v ∧ imm8Field w = imm8Field v ∧ r7Field w = r7Field v ∧ signField w = signField v ∧
      widthField w = widthField v ∧ opField w = opField v := by
  refine ⟨fun h => by simp [h], ?_⟩
  rintro ⟨hoff, himm, h7, hsign, hwidth, hop⟩
  rw [← append_fields w, ← append_fields v, hoff, himm, h7, hsign, hwidth, hop]

section
variable (off : Half) (imm : Byte) (sign : BitVec 1) (width : BitVec 2) (op : BitVec 4)

@[simp] theorem opField_commandWord : opField (commandWord off imm sign width op) = op :=
  BitVec.extractLsb'_append_eq_right

theorem extractLsb'_commandWord_above_op (start len : Nat) (h : 4 ≤ start) :
    (commandWord off imm sign width op).extractLsb' start len =
      (off ++ imm ++ 0#1 ++ sign ++ width).extractLsb' (start - 4) len :=
  BitVec.extractLsb'_append_eq_of_le h

@[simp] theorem widthField_commandWord : widthField (commandWord off imm sign width op) = width :=
  (extractLsb'_commandWord_above_op off imm sign width op 4 2 (by decide)).trans BitVec.extractLsb'_append_eq_right

@[simp] theorem signField_commandWord : signField (commandWord off imm sign width op) = sign := by
  refine (extractLsb'_commandWord_above_op off imm sign width op 6 1 (by decide)).trans ?_
  rw [BitVec.extractLsb'_append_eq_of_le (by decide)]
  exact BitVec.extractLsb'_append_eq_right

@[simp] theorem r7Field_commandWord : r7Field (commandWord off imm sign width op) = 0#1 := by
  refine (extractLsb'_commandWord_above_op off imm sign width op 7 1 (by decide)).trans ?_
  rw [BitVec.extractLsb'_append_eq_of_le (by decide), BitVec.extractLsb'_append_eq_of_le (by decide)]
  exact BitVec.extractLsb'_append_eq_right

@[simp] theorem imm8Field_commandWord : imm8Field (commandWord off imm sign width op) = imm := by
  refine (extractLsb'_commandWord_above_op off imm sign width op 8 8 (by decide)).trans ?_
  rw [BitVec.extractLsb'_append_eq_of_le (by decide), BitVec.extractLsb'_append_eq_of_le (by decide),
    BitVec.extractLsb'_append_eq_of_le (by decide)]
  exact BitVec.extractLsb'_append_eq_right

@[simp] theorem off16Field_commandWord : off16Field (commandWord off imm sign width op) = off := by
  refine (extractLsb'_commandWord_above_op off imm sign width op 16 16 (by decide)).trans ?_
  rw [BitVec.extractLsb'_append_eq_of_le (by decide), BitVec.extractLsb'_append_eq_of_le (by decide),
    BitVec.extractLsb'_append_eq_of_le (by decide), BitVec.extractLsb'_append_eq_of_le (by decide)]
  exact BitVec.extractLsb'_eq_self

theorem word_eq_commandWord_iff (w : Word) : w = commandWord off imm sign width op ↔
    off16Field w = off ∧ imm8Field w = imm ∧ r7Field w = 0#1 ∧ signField w = sign ∧ widthField w = width ∧
      opField w = op := by
  rw [word_eq_iff_fields, off16Field_commandWord, imm8Field_commandWord, r7Field_commandWord, signField_commandWord,
    widthField_commandWord, opField_commandWord]

end

/-! ### The decoder: the unused fields first, then the operation (R95, R96) -/

/-- The fields that OP does not use are 0: R95.3 to R95.6 do not hold of the word. -/
structure UnusedFieldsZero (w : Word) : Prop where
  r7 : r7Field w = 0#1
  width : opField w ≠ 5#4 → widthField w = 0#2
  sign : opField w ≠ 5#4 → signField w = 0#1
  off16 : opField w ≠ 5#4 → off16Field w = 0#16
  imm8 : opField w ≠ 7#4 → imm8Field w = 0#8

/-- `UnusedFieldsZero` by the conditions that `decode` tests, in its order. -/
theorem unusedFieldsZero_iff (w : Word) : UnusedFieldsZero w ↔
    ¬ (r7Field w = 1#1 ∨ (opField w ≠ 5#4 ∧ (widthField w ≠ 0#2 ∨ signField w ≠ 0#1))
      ∨ (opField w ≠ 7#4 ∧ imm8Field w ≠ 0#8) ∨ (opField w ≠ 5#4 ∧ off16Field w ≠ 0#16)) := by
  have h7 : r7Field w = 0#1 ↔ r7Field w ≠ 1#1 := by
    rcases BitVec.eq_zero_or_eq_one (r7Field w) with h | h <;> simp [h]
  constructor
  · rintro ⟨hr, hwidth, hsign, hoff, himm⟩ (h | ⟨h5, h | h⟩ | ⟨h7', h⟩ | ⟨h5, h⟩)
    · exact h7.mp hr h
    · exact h (hwidth h5)
    · exact h (hsign h5)
    · exact h (himm h7')
    · exact h (hoff h5)
  · intro h
    simp only [not_or, not_and, not_not] at h
    obtain ⟨hr, hsw, himm, hoff⟩ := h
    exact ⟨h7.mpr hr, fun h5 => (hsw h5).1, fun h5 => (hsw h5).2, hoff, himm⟩

theorem decode_of_unusedFieldsZero {w : Word} (h : UnusedFieldsZero w) : decode w = decodeOp w := by
  rw [unusedFieldsZero_iff] at h
  simp only [not_or] at h
  obtain ⟨h7, hsw, himm, hoff⟩ := h
  rw [decode, if_neg h7, if_neg hsw, if_neg himm, if_neg hoff]

theorem decode_of_not_unusedFieldsZero {w : Word} (h : ¬ UnusedFieldsZero w) : ∃ why, decode w = .illegal why := by
  rw [unusedFieldsZero_iff, not_not] at h
  unfold decode
  split_ifs with h7 hsw himm hoff
  · exact ⟨_, rfl⟩
  · exact ⟨_, rfl⟩
  · exact ⟨_, rfl⟩
  · exact ⟨_, rfl⟩
  · exact absurd h (by simp only [not_or]; exact ⟨h7, hsw, himm, hoff⟩)

/-! ### The commands: a word decodes to the command it encodes (R92, R93, R96) -/

theorem UnusedFieldsZero.commandWord_op {w : Word} (hz : UnusedFieldsZero w) (h5 : opField w ≠ 5#4)
    (h7 : opField w ≠ 7#4) : commandWord 0 0 0 0 (opField w) = w := by
  have hw := commandWord_fields w hz.r7
  rwa [hz.off16 h5, hz.imm8 h7, hz.sign h5, hz.width h5] at hw

theorem UnusedFieldsZero.commandWord_ext {w : Word} (hz : UnusedFieldsZero w) (h : opField w = 5#4) :
    commandWord (off16Field w) 0 (signField w) (widthField w) 5 = w := by
  have hw := commandWord_fields w hz.r7
  rwa [hz.imm8 (by simp [h]), h] at hw

theorem UnusedFieldsZero.commandWord_rate {w : Word} (hz : UnusedFieldsZero w) (h : opField w = 7#4) :
    commandWord 0 (imm8Field w) 0 0 7 = w := by
  have hw := commandWord_fields w hz.r7
  have h5 : opField w ≠ 5#4 := by simp [h]
  rwa [hz.off16 h5, hz.sign h5, hz.width h5, h] at hw

theorem decodeExt_eq_instr {sign : BitVec 1} {width : BitVec 2} {off : Half} {i : Instr}
    (h : decodeExt sign width off.toNat = .instr i) : i.wf = true ∧ encode i = commandWord off 0 sign width 5 := by
  have hoff : offsetInRange off.toNat = true := decide_eq_true off.isLt
  unfold decodeExt at h
  split at h <;> cases h <;> exact ⟨hoff, by rw [encode, BitVec.ofNat_toNat, BitVec.setWidth_eq]; rfl⟩

theorem decodeOp_eq_instr {w : Word} {i : Instr} (hz : UnusedFieldsZero w) (h : decodeOp w = .instr i) :
    i.wf = true ∧ encode i = w := by
  unfold decodeOp at h
  split at h
  case h_6 hop => exact hz.commandWord_ext hop ▸ decodeExt_eq_instr h
  case h_8 hop =>
    cases h
    refine ⟨decide_eq_true (imm8Field w).isLt, ?_⟩
    rw [encode, BitVec.ofNat_toNat, BitVec.setWidth_eq]
    exact hz.commandWord_rate hop
  case h_9 => cases h
  all_goals
    next hop =>
    cases h
    have hw := hz.commandWord_op (by simp [hop]) (by simp [hop])
    rw [hop] at hw
    exact ⟨rfl, hw⟩

theorem encode_of_decode {w : Word} {i : Instr} (h : decode w = .instr i) : i.wf = true ∧ encode i = w := by
  by_cases hz : UnusedFieldsZero w
  · exact decodeOp_eq_instr hz (decode_of_unusedFieldsZero hz ▸ h)
  · obtain ⟨why, hd⟩ := decode_of_not_unusedFieldsZero hz
    rw [hd] at h
    cases h

theorem decode_commandWord_ext (off : Half) (sign : BitVec 1) (width : BitVec 2) :
    decode (commandWord off 0 sign width 5) = decodeExt sign width off.toNat := by
  simp [decode, decodeOp]

theorem decode_commandWord_rate (imm : Byte) :
    decode (commandWord 0 imm 0 0 7) = .instr (.cfgRate imm.toNat) := by
  simp [decode, decodeOp]

theorem decode_encode (i : Instr) (h : i.wf = true) : decode (encode i) = .instr i := by
  cases i with
  | extU8 off | extU16 off | extU32 off | extI8 off | extI16 off | extI32 off =>
    have ho : off % 2 ^ 16 = off := Nat.mod_eq_of_lt (of_decide_eq_true h)
    rw [encode, decode_commandWord_ext, BitVec.toNat_ofNat, ho]
    rfl
  | cfgRate rate =>
    have hr : rate % 2 ^ 8 = rate := Nat.mod_eq_of_lt (of_decide_eq_true h)
    rw [encode, decode_commandWord_rate, BitVec.toNat_ofNat, hr]
  | _ => decide

theorem decode_eq_instr_iff (w : Word) (i : Instr) : decode w = .instr i ↔ i.wf = true ∧ encode i = w :=
  ⟨encode_of_decode, fun ⟨hwf, hw⟩ => hw ▸ decode_encode i hwf⟩

/-! ### The illegal words, by the fields (R95) -/

theorem width_eq_three {width : BitVec 2} (h0 : width ≠ 0#2) (h1 : width ≠ 1#2) (h2 : width ≠ 2#2) :
    width = 3#2 := by
  bv_omega

theorem decodeExt_illegal_iff (sign : BitVec 1) (width : BitVec 2) (off : Nat) :
    (∃ why, decodeExt sign width off = .illegal why) ↔ width = 3#2 := by
  unfold decodeExt
  split
  case h_7 hU8 hU16 hU32 hI8 hI16 hI32 =>
    refine iff_of_true ⟨_, rfl⟩ ?_
    rcases BitVec.eq_zero_or_eq_one sign with hs | hs
    · exact width_eq_three (hU8 hs) (hU16 hs) (hU32 hs)
    · exact width_eq_three (hI8 hs) (hI16 hs) (hI32 hs)
  all_goals simp

theorem decodeOp_illegal_iff (w : Word) : (∃ why, decodeOp w = .illegal why) ↔
    8 ≤ (opField w).toNat ∨ (opField w = 5#4 ∧ widthField w = 3#2) := by
  unfold decodeOp
  split
  case h_6 hop => simp [hop, decodeExt_illegal_iff]
  case h_9 =>
    refine iff_of_true ⟨_, rfl⟩ (.inl ?_)
    simp only [imp_false] at *
    bv_omega
  all_goals
    next hop => simp [hop]

theorem decode_illegal_iff (w : Word) : (∃ why, decode w = .illegal why) ↔
    ¬ UnusedFieldsZero w ∨ 8 ≤ (opField w).toNat ∨ (opField w = 5#4 ∧ widthField w = 3#2) := by
  by_cases hz : UnusedFieldsZero w
  · rw [decode_of_unusedFieldsZero hz, decodeOp_illegal_iff]
    simp [hz]
  · exact iff_of_true (decode_of_not_unusedFieldsZero hz) (.inl hz)

/-! ### The fields as masked bits of the word (R91) -/

theorem shiftRight_and_eq_iff (w : Word) (start : Nat) {len : Nat} (hlen : len ≤ 32) (v : BitVec len) :
    w >>> start &&& BitVec.ofNat 32 (2 ^ len - 1) = v.setWidth 32 ↔ w.extractLsb' start len = v := by
  have hpow : 2 ^ len ≤ 2 ^ 32 := Nat.pow_le_pow_right (by decide) hlen
  rw [← BitVec.toNat_inj, ← BitVec.toNat_inj, BitVec.toNat_and, BitVec.toNat_ushiftRight, BitVec.toNat_ofNat,
    BitVec.extractLsb'_toNat, BitVec.toNat_setWidth_of_le hlen, Nat.mod_eq_of_lt (by omega),
    Nat.and_two_pow_sub_one_eq_mod]

theorem opField_eq_iff (w : Word) (v : BitVec 4) : opField w = v ↔ w &&& 0xF#32 = v.setWidth 32 :=
  (shiftRight_and_eq_iff w 0 (by decide) v).symm

theorem opField_toNat (w : Word) : (opField w).toNat = (w &&& 0xF#32).toNat := by
  rw [(opField_eq_iff w _).mp rfl, BitVec.toNat_setWidth_of_le (by decide)]

theorem widthField_eq_iff (w : Word) (v : BitVec 2) : widthField w = v ↔ w >>> 4 &&& 3#32 = v.setWidth 32 :=
  (shiftRight_and_eq_iff w 4 (by decide) v).symm

/-- S and W together are bits 6:4. -/
theorem width_or_sign_ne_zero_iff (w : Word) :
    widthField w ≠ 0#2 ∨ signField w ≠ 0#1 ↔ w >>> 4 &&& 7#32 ≠ 0#32 := by
  rw [← not_and_or, not_iff_not]
  refine .trans ?_ (shiftRight_and_eq_iff w 4 (by decide) 0#3).symm
  simp only [widthField, signField, ← BitVec.toNat_inj, BitVec.extractLsb'_toNat, BitVec.toNat_ofNat]
  omega

theorem r7Field_eq_one_iff (w : Word) : r7Field w = 1#1 ↔ w.getLsbD 7 = true := by
  rw [r7Field, BitVec.getLsbD_eq_extractLsb']
  exact beq_iff_eq.symm

theorem imm8Field_eq_iff (w : Word) (v : BitVec 8) : imm8Field w = v ↔ w >>> 8 &&& 0xFF#32 = v.setWidth 32 :=
  (shiftRight_and_eq_iff w 8 (by decide) v).symm

theorem off16Field_toNat (w : Word) : (off16Field w).toNat = (w >>> 16).toNat := by
  rw [off16Field, BitVec.extractLsb'_toNat, BitVec.toNat_ushiftRight]
  exact Nat.mod_eq_of_lt (by omega)

theorem off16Field_eq_zero_iff (w : Word) : off16Field w = 0#16 ↔ w >>> 16 = 0#32 := by
  rw [← BitVec.toNat_inj, ← BitVec.toNat_inj, off16Field_toNat]
  rfl

/-! ### The engine's turn with an illegal word (R95, R97) -/

theorem engineTurn_of_illegal {s : State} {w : Word} {why : IllegalWord} (hd : decode w = .illegal why)
    (hp : s.pending = some w) : engineTurn s = .next (reject .illegalCmd s) := by
  rcases engineTurn_cases s w hp with ⟨i, -, hi, -⟩ | ⟨-, -, ht⟩
  · rw [hd] at hi
    cases hi
  · exact ht

/-- Settles O3: the conditions on the fields, each rewritten to the bits of the word; and the rejection of the word. -/
theorem illegalWordsAreThoseOfTheSixConditions : Obligations.IllegalWordsAreThoseOfTheSixConditions := by
  refine ⟨fun w => ?_, fun w why s hd hp => engineTurn_of_illegal hd hp⟩
  rw [decode_illegal_iff, unusedFieldsZero_iff, not_not, width_or_sign_ne_zero_iff]
  simp only [r7Field_eq_one_iff, opField_toNat, ne_eq, opField_eq_iff, widthField_eq_iff, imm8Field_eq_iff,
    off16Field_eq_zero_iff, BitVec.reduceSetWidth]
  tauto

/-! ### The rows of the opcode table (R96, R98) -/

theorem and_fields (w m : Word) :
    off16Field (w &&& m) = off16Field w &&& off16Field m ∧ imm8Field (w &&& m) = imm8Field w &&& imm8Field m ∧
      r7Field (w &&& m) = r7Field w &&& r7Field m ∧ signField (w &&& m) = signField w &&& signField m ∧
      widthField (w &&& m) = widthField w &&& widthField m ∧ opField (w &&& m) = opField w &&& opField m :=
  ⟨BitVec.extractLsb'_and, BitVec.extractLsb'_and, BitVec.extractLsb'_and, BitVec.extractLsb'_and,
    BitVec.extractLsb'_and, BitVec.extractLsb'_and⟩

theorem and_of_eq_allOnes {n : Nat} (x : BitVec n) {m : BitVec n} (h : m = BitVec.allOnes n) : x &&& m = x := by
  rw [h, BitVec.and_allOnes]

/-- A word with IMM8 0 is fixed by its low half and OFF16: the mask of the extractor rows. -/
theorem eq_commandWord_iff_low_half (w : Word) (off : Half) (sign : BitVec 1) (width : BitVec 2) (op : BitVec 4) :
    w = commandWord off 0 sign width op ↔
      w &&& 0x0000FFFF#32 = commandWord 0 0 sign width op ∧ off16Field w = off := by
  obtain ⟨hoff, himm, h7, hsign, hwidth, hop⟩ := and_fields w 0x0000FFFF#32
  have hzero : off16Field w &&& off16Field 0x0000FFFF#32 = 0 := BitVec.and_zero
  rw [word_eq_commandWord_iff, word_eq_commandWord_iff, hoff, himm, h7, hsign, hwidth, hop, hzero,
    and_of_eq_allOnes (imm8Field w) (by decide), and_of_eq_allOnes (r7Field w) (by decide),
    and_of_eq_allOnes (signField w) (by decide), and_of_eq_allOnes (widthField w) (by decide),
    and_of_eq_allOnes (opField w) (by decide)]
  tauto

/-- A word with OFF16 0 is fixed by its bits outside IMM8 and IMM8: the mask of the row of cfg.rate. -/
theorem eq_commandWord_iff_outside_imm8 (w : Word) (imm : Byte) (sign : BitVec 1) (width : BitVec 2)
    (op : BitVec 4) : w = commandWord 0 imm sign width op ↔
      w &&& 0xFFFF00FF#32 = commandWord 0 0 sign width op ∧ imm8Field w = imm := by
  obtain ⟨hoff, himm, h7, hsign, hwidth, hop⟩ := and_fields w 0xFFFF00FF#32
  have hzero : imm8Field w &&& imm8Field 0xFFFF00FF#32 = 0 := BitVec.and_zero
  rw [word_eq_commandWord_iff, word_eq_commandWord_iff, hoff, himm, h7, hsign, hwidth, hop, hzero,
    and_of_eq_allOnes (off16Field w) (by decide), and_of_eq_allOnes (r7Field w) (by decide),
    and_of_eq_allOnes (signField w) (by decide), and_of_eq_allOnes (widthField w) (by decide),
    and_of_eq_allOnes (opField w) (by decide)]
  tauto

theorem lt_and_eq_ofNat_iff {n : Nat} (k : Nat) (x : BitVec n) :
    k < 2 ^ n ∧ x = BitVec.ofNat n k ↔ k = x.toNat := by
  constructor
  · rintro ⟨hk, rfl⟩
    rw [BitVec.toNat_ofNat, Nat.mod_eq_of_lt hk]
  · rintro rfl
    exact ⟨x.isLt, by simp⟩

theorem encodes_ext_iff_row (w : Word) (off : Nat) (sign : BitVec 1) (width : BitVec 2) :
    offsetInRange off = true ∧ commandWord (BitVec.ofNat 16 off) 0 sign width 5 = w ↔
      w &&& 0x0000FFFF#32 = commandWord 0 0 sign width 5 ∧ off = (w >>> 16).toNat := by
  rw [eq_comm (b := w), eq_commandWord_iff_low_half, ← off16Field_toNat, ← lt_and_eq_ofNat_iff, and_left_comm,
    offsetInRange, decide_eq_true_iff]
  rfl

theorem imm8Field_toNat {w : Word} (h : off16Field w = 0#16) : (imm8Field w).toNat = (w >>> 8).toNat := by
  have hoff : (w >>> 16).toNat = 0 := by rw [← off16Field_toNat, h]; rfl
  rw [BitVec.toNat_ushiftRight] at hoff ⊢
  rw [imm8Field, BitVec.extractLsb'_toNat]
  omega

theorem encodes_rate_iff_row (w : Word) (rate : Nat) :
    rateInRange rate = true ∧ commandWord 0 (BitVec.ofNat 8 rate) 0 0 7 = w ↔
      w &&& 0xFFFF00FF#32 = commandWord 0 0 0 0 7 ∧ rate = (w >>> 8).toNat := by
  rw [eq_comm (b := w), eq_commandWord_iff_outside_imm8, and_left_comm, rateInRange, decide_eq_true_iff]
  refine and_congr_right fun h => ?_
  have hw : w = commandWord 0 (imm8Field w) 0 0 7 := (eq_commandWord_iff_outside_imm8 w _ 0 0 7).mpr ⟨h, rfl⟩
  have hoff : off16Field w = 0#16 := by rw [hw, off16Field_commandWord]; rfl
  rw [← imm8Field_toNat hoff]
  exact lt_and_eq_ofNat_iff rate (imm8Field w)

/-- The operand of the command is the number in the operand bits of its row (R98); the bits of cfg.rate's operand are
the highest that its row does not fix at 0. -/
def OperandIn (w : Word) : Instr → Prop
  | .extU8 off | .extU16 off | .extU32 off | .extI8 off | .extI16 off | .extI32 off => off = (w >>> 16).toNat
  | .cfgRate rate => rate = (w >>> 8).toNat
  | _ => True

/-- R96: a word decodes to a command exactly when it matches the command's row and holds the command's operand. -/
theorem decode_eq_instr_iff_row (w : Word) (i : Instr) :
    decode w = .instr i ↔ w &&& (row i).2 = (row i).1 ∧ OperandIn w i := by
  rw [decode_eq_instr_iff]
  cases i with
  | extU8 off => exact encodes_ext_iff_row w off 0 0
  | extU16 off => exact encodes_ext_iff_row w off 0 1
  | extU32 off => exact encodes_ext_iff_row w off 0 2
  | extI8 off => exact encodes_ext_iff_row w off 1 0
  | extI16 off => exact encodes_ext_iff_row w off 1 1
  | extI32 off => exact encodes_ext_iff_row w off 1 2
  | cfgRate rate => exact encodes_rate_iff_row w rate
  | _ =>
    refine .trans (and_iff_right rfl) (.trans ?_ (and_iff_left trivial).symm)
    exact eq_comm.trans (Eq.congr_left (and_of_eq_allOnes w rfl).symm)

theorem decode_eq_instr_of_row {w : Word} (i : Instr) (hm : w &&& (row i).2 = (row i).1) (ho : OperandIn w i) :
    decode w = .instr i :=
  (decode_eq_instr_iff_row w i).mpr ⟨hm, ho⟩

theorem decode_illegal_iff_forall (w : Word) : (∃ why, decode w = .illegal why) ↔ ∀ i, decode w ≠ .instr i := by
  cases decode w <;> simp

/-- R96: the illegal words are those that match none of the 13 rows. -/
theorem decode_illegal_iff_no_row (w : Word) : (∃ why, decode w = .illegal why) ↔
    w ∉ [0#32, 1#32, 2#32, 3#32, 4#32, 6#32]
      ∧ w &&& 0x0000FFFF#32 ∉ [0x05#32, 0x15#32, 0x25#32, 0x45#32, 0x55#32, 0x65#32]
      ∧ w &&& 0xFFFF00FF#32 ≠ 0x07#32 := by
  rw [decode_illegal_iff_forall]
  constructor
  · intro h
    simp only [List.mem_cons, List.not_mem_nil, or_false]
    refine ⟨?_, ?_, fun hm => h _ (decode_eq_instr_of_row (.cfgRate _) hm rfl)⟩
    · rintro (rfl | rfl | rfl | rfl | rfl | rfl) <;> exact h _ rfl
    · rintro (hm | hm | hm | hm | hm | hm)
      · exact h _ (decode_eq_instr_of_row (.extU8 _) hm rfl)
      · exact h _ (decode_eq_instr_of_row (.extU16 _) hm rfl)
      · exact h _ (decode_eq_instr_of_row (.extU32 _) hm rfl)
      · exact h _ (decode_eq_instr_of_row (.extI8 _) hm rfl)
      · exact h _ (decode_eq_instr_of_row (.extI16 _) hm rfl)
      · exact h _ (decode_eq_instr_of_row (.extI32 _) hm rfl)
  · rintro ⟨hwhole, hlow, hrate⟩ i hi
    obtain ⟨hm, -⟩ := (decode_eq_instr_iff_row w i).mp hi
    cases i with
    | cfgRate => exact hrate hm
    | extU8 | extU16 | extU32 | extI8 | extI16 | extI32 => exact hlow (hm ▸ by simp [row])
    | _ => exact hwhole ((and_of_eq_allOnes w rfl).symm.trans hm ▸ by decide)

/-- Settles O4: each row is `decode_eq_instr_iff_row` at its command. -/
theorem wordsDecodeByTheOpcodeTable : Obligations.WordsDecodeByTheOpcodeTable := by
  intro w
  have row_iff := decode_eq_instr_iff_row w
  have whole (i : Instr) (h : OperandIn w i) : decode w = .instr i ↔ w &&& (row i).2 = (row i).1 :=
    (row_iff i).trans (and_iff_left h)
  exact ⟨whole .nop trivial, whole .ckCompute trivial, whole .ckVerify trivial, whole .frameValidate trivial,
    whole .ubxDecode trivial, fun off => row_iff (.extU8 off), fun off => row_iff (.extU16 off),
    fun off => row_iff (.extU32 off), fun off => row_iff (.extI8 off), fun off => row_iff (.extI16 off),
    fun off => row_iff (.extI32 off), whole .cfgNmeaOff trivial, fun rate => row_iff (.cfgRate rate),
    decode_illegal_iff_no_row w⟩

/-! ### A write to CMD (R90) -/

/-- The 32-bit access to CMD is legal. -/
theorem legalAccess_cmd : LegalAccess (0x000 : Addr).toNat .four := ⟨rfl, fun _ => rfl⟩

theorem memWrite_cmd_of_idle (s : State) (w : Word) (hb : s.status.busy = false) :
    memWrite 0x000 .four w s = some (issue w s) :=
  memWrite_taken s 0x000 .four w legalAccess_cmd (by simp [hb])

/-- Settles O9: an idle core takes the word unread, a busy one drops it as it drops any operand write, and the engine's
turn rejects an illegal word. -/
theorem cmdWriteIssuesACommand : Obligations.CmdWriteIssuesACommand := by
  intro s w
  refine ⟨memWrite_cmd_of_idle s w, fun hb => memWrite_dropped 0x000 .four w s legalAccess_cmd hb (.inl rfl),
    fun why t hd hb ht => ?_⟩
  obtain rfl : issue w s = t := Option.some.inj ((memWrite_cmd_of_idle s w hb).symm.trans ht)
  exact ⟨_, engineTurn_of_illegal hd rfl, rfl, rfl⟩

end Sys2Proof.Machine
end

section
/-! PROOFS. The statements of spec/40_checksum.md: the accumulator as a recurrence on its range's end (R120), and the
outcomes of ck.compute (R121) and ck.verify (R122). -/

namespace Sys2Proof.Machine

/-! ### The accumulator over a range (R120) -/

theorem fletcher_empty (s : State) (i j : Nat) (h : j ≤ i) : fletcher s i j = (0#8, 0#8) := by
  rw [fletcher, s.inRange_empty i j h, fletcherOf_nil]

theorem fletcher_succ (s : State) (i j : Nat) (h : i ≤ j) :
    fletcher s i (j + 1) = fletcherStep (fletcher s i j) (s.inByte j) := by
  rw [fletcher, s.inRange_succ i j h, fletcherOf_snoc, fletcher]

/-- Settles O17: an empty range leaves the loop at its start, and a range's last byte is the loop's last turn. -/
theorem fletcherRunsTheLoop : Obligations.FletcherRunsTheLoop :=
  fun s i j => ⟨fletcher_empty s i j, fletcher_succ s i j⟩

/-! ### The two commands (R121, R122) -/

theorem exec_ckCompute (s : State) : exec .ckCompute s = execCkCompute s := rfl

theorem exec_ckVerify (s : State) : exec .ckVerify s = execCkVerify s := rfl

/-- ck.compute stores (0, 0) for an empty range, wherever its end lies (R121). -/
theorem execCkCompute_empty (s : State) (hcap : s.inSize.toNat ≤ s.params.nIn) (h : s.ckEnd.toNat ≤ s.ckStart.toNat) :
    execCkCompute s = .next (accept { s with ckResult := { a := 0#8, b := 0#8 } }) := by
  rw [execCkCompute_accepted s hcap (.inl h), fletcher_empty s _ _ h]

/-- Settles O19: the two rejections, the pair of a range that ends inside IN_SIZE, and the empty range. -/
theorem ckComputeWritesThePair : Obligations.CkComputeWritesThePair := by
  refine ⟨by decide, fun s => ?_⟩
  rw [exec_ckCompute]
  exact ⟨fun hcap => execCkCompute_rejected s (.inl hcap), fun hne hend => execCkCompute_rejected s (.inr ⟨hne, hend⟩),
    fun hcap hend => execCkCompute_accepted s hcap (.inr hend), execCkCompute_empty s⟩

/-- The trailing-checksum test as one equation of pairs, ck_a first (R122). -/
theorem checksumMatches_iff_pair (s : State) : checksumMatches s = true ↔
    fletcher s 2 (s.inSize.toNat - 2) = (s.inByte (s.inSize.toNat - 2), s.inByte (s.inSize.toNat - 1)) := by
  rw [checksumMatches_iff, Prod.ext_iff]

/-- Settles O20: past the two tests of IN_SIZE, the trailer decides between BAD_CHECKSUM and acceptance. -/
theorem ckVerifyChecksTheTrailer : Obligations.CkVerifyChecksTheTrailer := by
  refine ⟨by decide, fun s => ?_⟩
  rw [exec_ckVerify]
  refine ⟨execCkVerify_beyond_capacity s, execCkVerify_short s, fun hcap hmin hne => ?_, fun hcap hmin heq => ?_⟩
  · have hbad : ¬ checksumMatches s = true := mt (checksumMatches_iff_pair s).mp hne
    rw [execCkVerify_checked s hcap hmin, if_neg hbad]
  · have hgood : checksumMatches s = true := (checksumMatches_iff_pair s).mpr heq
    rw [execCkVerify_checked s hcap hmin, if_pos hgood]

end Sys2Proof.Machine
end

section
/-! PROOFS. The statements of spec/41_frame_validator.md: the reason of the validator's first failing step (R140), and
frame.validate (R141). -/

namespace Sys2Proof.Machine

/-! ### The validator (R140) -/

/-- Past the two tests of IN_SIZE (`validate_beyond_capacity`, `validate_short`), the sync bytes and then the trailing
checksum decide. -/
theorem validate_of_size (s : State) (hcap : s.inSize.toNat ≤ s.params.nIn) (hmin : 8 ≤ s.inSize.toNat) :
    validate s = if s.inByte 0 ≠ 0xB5#8 ∨ s.inByte 1 ≠ 0x62#8 then .badSync
      else if checksumMatches s then .ok else .badChecksum := by
  rw [validate, if_neg (Nat.not_lt.mpr hcap)]
  exact if_neg (Nat.not_lt.mpr hmin)

/-- Settles O21: in each of the five cases of R140's steps the validator's one answer is known, and the conditions of
the other four answers fail. -/
theorem validateReportsTheFirstFailingStep : Obligations.ValidateReportsTheFirstFailingStep := by
  intro s size sync trailer
  rcases Nat.lt_or_ge s.params.nIn size with hcap | hcap
  · simp [validate_beyond_capacity s hcap, hcap]
  rcases Nat.lt_or_ge size 8 with hmin | hmin
  · simp [validate_short s hcap hmin, hcap, hmin]
  have htrailer : checksumMatches s = true ↔ trailer := checksumMatches_iff s
  rw [validate_of_size s hcap hmin]
  by_cases hsync : sync
  · rw [if_neg (mt not_and_or.mpr (not_not.mpr hsync))]
    by_cases ht : trailer <;> simp [htrailer, ht, hsync, hcap, hmin]
  · rw [if_pos (not_and_or.mp hsync)]
    simp [hsync, hcap, hmin]

/-! ### frame.validate (R141) -/

/-- The low half of a two-byte field is its two bytes, the first one low (R12). -/
theorem le_two_setWidth (s : State) (i : Nat) : (le s i 2).setWidth 16 = s.inByte (i + 1) ++ s.inByte i := by
  rw [le, composeLE_two, BitVec.append_assoc]
  exact BitVec.setWidth_append_eq_right

/-- The header's bytes: LENGTH is `IN[5]` above `IN[4]` (R39). -/
theorem headerOf_eq (s : State) :
    headerOf s = { cls := s.inByte 2, id := s.inByte 3, len := s.inByte 5 ++ s.inByte 4 } := by
  rw [headerOf, le_two_setWidth]

theorem exec_frameValidate (s : State) : exec .frameValidate s = execFrameValidate s := rfl

/-- Settles O22: the validator's answer chooses between the rejection and the acceptance with the header. -/
theorem frameValidateReportsTheHeader : Obligations.FrameValidateReportsTheHeader := by
  refine ⟨by decide, fun s => ?_⟩
  rw [exec_frameValidate, execFrameValidate, ← headerOf_eq]
  exact ⟨fun hbad => if_neg hbad, fun hok => if_pos hok⟩

end Sys2Proof.Machine
end

section
/-! PROOFS. The statements of spec/42_field_extractor.md: a field as a number, unsigned and signed (R160), and the words
and outcomes of the six extractor commands (R161 to R167). -/

namespace Sys2Proof.Machine

/-! ### A field as a number (R160) -/

@[simp] theorem extract_unsigned (s : State) (i n : Nat) : extract s i n false = le s i n := rfl

@[simp] theorem extract_signed (s : State) (i n : Nat) : extract s i n true = signExtendBytes (le s i n) n := rfl

/-- Four bytes leave nothing to extend. -/
theorem signExtendBytes_four (v : Word) : signExtendBytes v 4 = v :=
  (BitVec.signExtend_eq _).trans (BitVec.setWidth_eq v)

theorem signExtendBytes_toInt (v : Word) (n : Nat) (hpos : 0 < n) (hn : n ≤ 4) (hv : v.toNat < 2 ^ (8 * n)) :
    (signExtendBytes v n).toInt =
      if 2 ^ (8 * n - 1) ≤ v.toNat then (v.toNat : Int) - 2 ^ (8 * n) else v.toNat := by
  have hlow : (v.setWidth (8 * n)).toNat = v.toNat := by rw [BitVec.toNat_setWidth, Nat.mod_eq_of_lt hv]
  have hhalf : 2 ^ (8 * n - 1) * 2 = 2 ^ (8 * n) := Nat.two_pow_pred_mul_two (by omega)
  have htop : ¬ 2 * v.toNat < 2 ^ (8 * n) ↔ 2 ^ (8 * n - 1) ≤ v.toNat := by omega
  rw [signExtendBytes, BitVec.toInt_signExtend_of_le (by omega), BitVec.toInt_eq_toNat_cond, hlow, ← ite_not]
  simp only [htop, Nat.cast_pow, Nat.cast_ofNat]

/-- Settles O23: the sum of the bytes by weight, below `256 ^ n`, and the sign extension of that number. -/
theorem extractReadsLittleEndianIntegers : Obligations.ExtractReadsLittleEndianIntegers := by
  intro s i n hn field
  obtain ⟨hpos, hfour⟩ : 0 < n ∧ n ≤ 4 := by
    simp only [List.mem_cons, List.not_mem_nil, or_false] at hn
    omega
  obtain ⟨hle, hlt⟩ : (le s i n).toNat = field ∧ (le s i n).toNat < 256 ^ n := composeLE_toNat s.inByte i n hfour
  have hsigned := signExtendBytes_toInt (le s i n) n hpos hfour (by rwa [Nat.pow_mul])
  rw [hle] at hsigned
  simp only [extract_unsigned, extract_signed]
  exact ⟨hle, hle, hsigned, signExtendBytes_four (le s i 4)⟩

/-! ### The field's bytes, extended to EXT_DATA (R162 to R167) -/

theorem extract_u8 (s : State) (i : Nat) : extract s i 1 false = 0#24 ++ s.inByte i := composeLE_one s.inByte i

theorem extract_u16 (s : State) (i : Nat) : extract s i 2 false = 0#16 ++ s.inByte (i + 1) ++ s.inByte i :=
  composeLE_two s.inByte i

theorem extract_u32 (s : State) (i : Nat) :
    extract s i 4 false = s.inByte (i + 3) ++ s.inByte (i + 2) ++ s.inByte (i + 1) ++ s.inByte i :=
  composeLE_four s.inByte i

/-- The low byte of a one-byte field is that byte; `le_two_setWidth` is the same for two bytes. -/
theorem le_one_setWidth (s : State) (i : Nat) : (le s i 1).setWidth 8 = s.inByte i := by
  rw [le, composeLE_one]
  exact BitVec.setWidth_append_eq_right

theorem extract_i8 (s : State) (i : Nat) : extract s i 1 true = (s.inByte i).signExtend 32 := by
  rw [extract_signed, ← le_one_setWidth]
  rfl

theorem extract_i16 (s : State) (i : Nat) :
    extract s i 2 true = (s.inByte (i + 1) ++ s.inByte i).signExtend 32 := by
  rw [extract_signed, ← le_two_setWidth]
  rfl

theorem extract_i32 (s : State) (i : Nat) :
    extract s i 4 true = s.inByte (i + 3) ++ s.inByte (i + 2) ++ s.inByte (i + 1) ++ s.inByte i := by
  rw [extract_signed, signExtendBytes_four, le, composeLE_four]

/-! ### The commands (R161 to R167) -/

/-- The word of an extractor: its offset above the fields S, W and OP (R98). -/
theorem commandWord_ext_eq (sign : BitVec 1) (width : BitVec 2) {off : Nat} (h : off < 65536) :
    commandWord (BitVec.ofNat 16 off) 0 sign width 5 =
      BitVec.ofNat 32 (off * 2 ^ 16 + (commandWord 0 0 sign width 5).toNat) := by
  have hlow : (commandWord 0 0 sign width 5).toNat < 2 ^ 16 := by
    revert sign width
    decide
  refine ((encodes_ext_iff_row _ off sign width).mpr ⟨BitVec.eq_of_toNat_eq ?_, ?_⟩).2
  · rw [BitVec.toNat_and, BitVec.toNat_ofNat, show (0x0000FFFF#32).toNat = 2 ^ 16 - 1 from rfl,
      Nat.and_two_pow_sub_one_eq_mod]
    omega
  · rw [BitVec.toNat_ushiftRight, BitVec.toNat_ofNat, Nat.shiftRight_eq_div_pow]
    omega

section
variable {s : State} {off n : Nat} {signed : Bool}

theorem extCommand_accepted {v : Word} (hv : extract s off n signed = v) (hcap : s.inSize.toNat ≤ s.params.nIn)
    (hin : off + n ≤ s.inSize.toNat) : extCommand off n signed s = .next (accept { s with extData := v }) := by
  rw [extCommand, if_pos ((extCheck_ok s off n).mpr ⟨hcap, hin⟩), hv]

theorem extCommand_rejected (h : s.params.nIn < s.inSize.toNat ∨ s.inSize.toNat < off + n) :
    extCommand off n signed s = .next (reject .range s) := by
  have hbad : extCheck s off n ≠ .ok := by
    rw [ne_eq, extCheck_ok]
    omega
  rw [extCommand, if_neg hbad, extCheck_not_ok s off n hbad]

end

theorem exec_extU8 (off : Nat) (s : State) : exec (.extU8 off) s = extCommand off 1 false s := rfl

theorem exec_extU16 (off : Nat) (s : State) : exec (.extU16 off) s = extCommand off 2 false s := rfl

theorem exec_extU32 (off : Nat) (s : State) : exec (.extU32 off) s = extCommand off 4 false s := rfl

theorem exec_extI8 (off : Nat) (s : State) : exec (.extI8 off) s = extCommand off 1 true s := rfl

theorem exec_extI16 (off : Nat) (s : State) : exec (.extI16 off) s = extCommand off 2 true s := rfl

theorem exec_extI32 (off : Nat) (s : State) : exec (.extI32 off) s = extCommand off 4 true s := rfl

/-- Settles O24: the words by their fields, and the two outcomes of the shared form with the zero-extended bytes. -/
theorem unsignedExtractorsWriteExtData : Obligations.UnsignedExtractorsWriteExtData := by
  refine fun off => ⟨fun h => ⟨commandWord_ext_eq 0 0 h, commandWord_ext_eq 0 1 h, commandWord_ext_eq 0 2 h⟩,
    fun s => ?_⟩
  rw [exec_extU8, exec_extU16, exec_extU32]
  exact ⟨extCommand_accepted (extract_u8 s off), extCommand_accepted (extract_u16 s off),
    extCommand_accepted (extract_u32 s off), extCommand_rejected, extCommand_rejected, extCommand_rejected⟩

/-- Settles O25: as O24, with S set and the bytes sign-extended. -/
theorem signedExtractorsWriteExtData : Obligations.SignedExtractorsWriteExtData := by
  refine fun off => ⟨fun h => ⟨commandWord_ext_eq 1 0 h, commandWord_ext_eq 1 1 h, commandWord_ext_eq 1 2 h⟩,
    fun s => ?_⟩
  rw [exec_extI8, exec_extI16, exec_extI32]
  exact ⟨extCommand_accepted (extract_i8 s off), extCommand_accepted (extract_i16 s off),
    extCommand_accepted (extract_i32 s off), extCommand_rejected, extCommand_rejected, extCommand_rejected⟩

end Sys2Proof.Machine
end

section
/-! PROOFS. The statements of spec/43_pvt_decoder.md: the declared length and the truncation check (R182, R183), the
record as the list of its fields (R180, R184), and the outcomes of ubx.decode (R221). -/

namespace Sys2Proof.Machine

section
variable {s : State}

/-! ### The record (R180, R182 to R184) -/

/-- A two-byte field as a number, its first byte the low one (R12). -/
theorem le_two_toNat (s : State) (i : Nat) :
    (le s i 2).toNat = (s.inByte i).toNat + 256 * (s.inByte (i + 1)).toNat := by
  rw [le, (composeLE_toNat s.inByte i 2 (by decide)).1]
  simp [List.range_succ, Nat.mul_comm]

theorem pvtCheck_wrong_length (hlen : (le s 4 2).toNat ≠ 92) : pvtCheck s = .payloadLengthMismatch := if_pos hlen

theorem pvtCheck_truncated (hlen : (le s 4 2).toNat = 92) (hsize : s.inSize.toNat < 100) :
    pvtCheck s = .payloadTruncated :=
  (if_neg (not_not.mpr hlen)).trans (if_pos hsize)

/-- The record is the table of R180, each row read at frame offset 6 + payload offset. -/
theorem navRecord_eq_map (s : State) : Vector.ofFn (navValue s) =
    navTable.map fun f => extract s (Config.hdrLen + f.payloadOff) f.bytes f.signed := by
  ext k hk
  simp [navValue]

/-- The rows of the table, one by one. -/
theorem navRecord_toList (s : State) : (Vector.ofFn (navValue s)).toList =
    [extract s 6 4 false, extract s 10 2 false, extract s 12 1 false, extract s 13 1 false,
     extract s 14 1 false, extract s 15 1 false, extract s 16 1 false, extract s 17 1 false,
     extract s 18 4 false, extract s 22 4 true, extract s 26 1 false, extract s 27 1 false,
     extract s 28 1 false, extract s 29 1 false, extract s 30 4 true, extract s 34 4 true,
     extract s 38 4 true, extract s 42 4 true, extract s 46 4 false, extract s 50 4 false,
     extract s 54 4 true, extract s 58 4 true, extract s 62 4 true, extract s 66 4 true,
     extract s 70 4 true, extract s 74 4 false, extract s 78 4 false, extract s 82 2 false,
     extract s 84 2 false, extract s 90 4 true, extract s 94 2 true, extract s 96 2 false] := by
  rw [navRecord_eq_map, Vector.toList_map]
  rfl

/-! ### ubx.decode after validation (R220, R221) -/

theorem decodeValidated_unrouted (hmsg : ¬ (s.inByte 2 = 0x01#8 ∧ s.inByte 3 = 0x07#8)) :
    decodeValidated s = reject .unknownMessage s := by
  have hnone : dispatch (s.inByte 2) (s.inByte 3) = none := (dispatch_eq _ _).trans (if_neg hmsg)
  rw [decodeValidated, hnone]

/-- NAV-PVT is the one row of DISPATCH. -/
theorem dispatch_of_pvt (hmsg : s.inByte 2 = 0x01#8 ∧ s.inByte 3 = 0x07#8) :
    dispatch (s.inByte 2) (s.inByte 3) = some .pvt :=
  (dispatch_eq _ _).trans (if_pos hmsg)

theorem decodeValidated_rejected {c : Reason} (hmsg : s.inByte 2 = 0x01#8 ∧ s.inByte 3 = 0x07#8)
    (hc : pvtCheck s = c) (hne : c ≠ .ok) : decodeValidated s = reject c s := by
  subst hc
  rw [decodeValidated, dispatch_of_pvt hmsg, pvtDecode, if_neg hne]

theorem decodeValidated_accepted (hmsg : s.inByte 2 = 0x01#8 ∧ s.inByte 3 = 0x07#8) (hok : pvtCheck s = .ok) :
    decodeValidated s = accept { s with nav := Vector.ofFn (navValue s), status := s.status.withNavValid } := by
  rw [decodeValidated, dispatch_of_pvt hmsg, pvtDecode, if_pos hok]

/-! ### The whole command (R221) -/

theorem exec_ubxDecode_of_invalid (hbad : validate s ≠ .ok) :
    exec .ubxDecode s = .next (reject (validate s) s) := if_neg hbad

/-- A valid frame writes FRAME_INFO whatever follows. -/
theorem exec_ubxDecode_of_valid (hok : validate s = .ok) :
    exec .ubxDecode s = .next (decodeValidated { s with
      frameInfo := { cls := s.inByte 2, id := s.inByte 3, len := s.inByte 5 ++ s.inByte 4 } }) := by
  rw [← headerOf_eq]
  exact if_pos hok

end

/-- Settles O26: over the state that holds FRAME_INFO, the message's class and id and then the record's check decide
between a rejection and the whole record. -/
theorem ubxDecodeCommitsTheRecord : Obligations.UbxDecodeCommitsTheRecord := by
  refine ⟨by decide, fun s => ?_⟩
  intro info len isPvt
  have hlen : (le s 4 2).toNat = len := le_two_toNat s 4
  have hvalid (hok : validate s = .ok) {t : State} (ht : decodeValidated { s with frameInfo := info } = t) :
      exec .ubxDecode s = .next t := ht ▸ exec_ubxDecode_of_valid hok
  refine ⟨exec_ubxDecode_of_invalid, fun hok hmsg => ?_, fun hok hmsg hne => ?_, fun hok hmsg h92 hsize => ?_,
    fun hok hmsg h92 hsize => ⟨Vector.ofFn (navValue s), ?_, navRecord_toList s⟩⟩
  · exact hvalid hok (decodeValidated_unrouted hmsg)
  · have hc : pvtCheck s = .payloadLengthMismatch := pvtCheck_wrong_length (hlen.trans_ne hne)
    exact hvalid hok (decodeValidated_rejected hmsg hc (by decide))
  · have hc : pvtCheck s = .payloadTruncated := pvtCheck_truncated (hlen.trans h92) hsize
    exact hvalid hok (decodeValidated_rejected hmsg hc (by decide))
  · have hc : pvtCheck s = .ok := (pvtCheck_ok s).mpr ⟨hlen.trans h92, hsize⟩
    exact hvalid hok (decodeValidated_accepted hmsg hc)

end Sys2Proof.Machine
end

section
/-! PROOFS. The statements of spec/45_config_builder.md: the built frame as sync bytes, covered bytes and checksum
(R240), and the two commands that commit it (R241, R242). -/

namespace Sys2Proof.Machine

/-! ### The frame (R240) -/

/-- The thirteen bytes under the checksum, with the bytes of the key as shifts of it. -/
theorem frameBody_drop_two (key : Word) (value : Byte) : (frameBody key value).drop 2 =
    [0x06, 0x8A, 0x09, 0x00, 0x00, 0x01, 0x00, 0x00,
      key.setWidth 8, (key >>> 8).setWidth 8, (key >>> 16).setWidth 8, (key >>> 24).setWidth 8, value] := by
  simp only [frameBody, byteOf_eq_shift key]
  rfl

/-- The frame is the sync bytes, the bytes under the checksum, and their Fletcher-8 pair, ck_a first. -/
theorem build_toList {key : Word} {value : Byte} {covered : List Byte}
    (h : (frameBody key value).drop 2 = covered) :
    (build key value).toList = [0xB5#8, 0x62#8] ++ covered ++ [(fletcherOf covered).1, (fletcherOf covered).2] := by
  subst h
  rfl

/-! ### The commands (R241, R242) -/

theorem exec_cfgNmeaOff (s : State) :
    exec .cfgNmeaOff s = .next (accept { s with outBuf := build s.params.nmeaKey 0x00#8, outLen := 17#8 }) := rfl

theorem exec_cfgRate (rate : Nat) (s : State) :
    exec (.cfgRate rate) s =
      .next (accept { s with outBuf := build s.keyRate (BitVec.ofNat 8 rate), outLen := 17#8 }) := rfl

/-- The word of cfg.rate: its rate byte above the fields S, W and OP (R98). -/
theorem commandWord_rate_eq {rate : Nat} (h : rate < 256) :
    commandWord 0 (BitVec.ofNat 8 rate) 0 0 7 = BitVec.ofNat 32 (rate * 2 ^ 8 + 0x07) := by
  have hcat : (commandWord 0 (BitVec.ofNat 8 rate) 0 0 7).toNat = (BitVec.ofNat 8 rate).toNat <<< 8 ||| 7 := by
    simp only [commandWord, BitVec.toNat_append]
    simp [← Nat.shiftLeft_add, -BitVec.toNat_ofNat]
  apply BitVec.eq_of_toNat_eq
  rw [hcat, ← Nat.shiftLeft_add_eq_or_of_lt (by decide), Nat.shiftLeft_eq, BitVec.toNat_ofNat, BitVec.toNat_ofNat]
  omega

/-- Settles O28: the word by its rate field, and the built frame of KEY_RATE as OUT_BUF, whatever the byte. -/
theorem cfgRateBuildsTheRateFrame : Obligations.CfgRateBuildsTheRateFrame :=
  fun r hr => ⟨commandWord_rate_eq hr, fun s =>
    ⟨build s.keyRate (BitVec.ofNat 8 r), exec_cfgRate r s, build_toList (frameBody_drop_two _ _)⟩⟩

/-- Settles O27: as O28, with the key of the parameters and the value 0. -/
theorem cfgNmeaOffBuildsTheDisableFrame : Obligations.CfgNmeaOffBuildsTheDisableFrame :=
  ⟨by decide, fun s => ⟨build s.params.nmeaKey 0x00#8, exec_cfgNmeaOff s, build_toList (frameBody_drop_two _ _)⟩⟩

end Sys2Proof.Machine
end

section
/-! PROOFS. The statement of spec/46_control.md: nop as `accept()` of the unchanged state (R260). -/

namespace Sys2Proof.Machine

theorem exec_nop (s : State) : exec .nop s = .next (accept s) := rfl

/-- What `accept()` writes, field by field (R45): PENDING, and of STATUS all but NAV_VALID and OVR. -/
theorem accept_eq (s : State) : accept s = { s with
    pending := none
    status := { busy := false, done := true, pass := true, navValid := s.status.navValid, reason := .ok,
                ovr := s.status.ovr } } := rfl

/-- Settles O16: nop's word by evaluation, and its outcome as what `accept()` writes on the state as it stands. -/
theorem nopOnlyCompletes : Obligations.NopOnlyCompletes :=
  ⟨by decide, fun s => (exec_nop s).trans (congrArg Host.Outcome.next (accept_eq s))⟩

end Sys2Proof.Machine
end

section
/-! PROOFS. The statement of spec/60_exceptions.md: the completion of a pending word as an accept or a reject, and what
each of the two ends leaves (R45, R303). -/

namespace Sys2Proof.Machine

/-! ### The two ends of a command -/

/-- What `reject(code)` writes, field by field (R303): PENDING, and of STATUS all but NAV_VALID and OVR. -/
theorem reject_eq (c : Reason) (s : State) : reject c s = { s with
    pending := none
    status := { s.status with busy := false, done := true, pass := false, reason := c } } := rfl

theorem Accepted.pending_eq {s t : State} {i : Instr} (h : Accepted s i t) : t.pending = none := by
  cases h <;> rfl

/-- The fields of STATUS after an accept, ubx.decode's with its NAV_VALID included (R45). -/
theorem Accepted.status_fields {s t : State} {i : Instr} (h : Accepted s i t) :
    t.status.busy = false ∧ t.status.done = true ∧ t.status.ovr = s.status.ovr
      ∧ t.status.pass = true ∧ t.status.reason = .ok := by
  rw [h.status_eq]
  split <;> exact ⟨rfl, rfl, rfl, rfl, rfl⟩

/-- A rejected command is `reject(code)` of the state with at most FRAME_INFO written before, and that only by a
ubx.decode whose validation passed (R303). -/
theorem Rejected.exists_reject {s t : State} {i : Instr} (h : Rejected s i t) :
    ∃ c info, c ≠ .ok ∧ t = reject c { s with frameInfo := info }
      ∧ (info ≠ s.frameInfo → i = .ubxDecode ∧ validate s = .ok) := by
  cases h with
  | statusOnly _ c hc => exact ⟨c, s.frameInfo, hc, rfl, fun hne => absurd rfl hne⟩
  | afterValidation c hc hv => exact ⟨c, headerOf s, hc, rfl, fun _ => ⟨rfl, hv⟩⟩

/-! ### The completion of a pending word -/

/-- The completion of a pending word always answers, by the accept of the command it decodes to or by a `reject(code)`;
an illegal word ends as the reject that writes no FRAME_INFO (R97, R303). -/
theorem engineTurn_accepts_or_rejects {s : State} {w : Word} (hw : s.pending = some w) :
    ∃ t, engineTurn s = .next t ∧ ((∃ i, decode w = .instr i ∧ Accepted s i t) ∨
      ∃ c info, c ≠ .ok ∧ t = reject c { s with frameInfo := info }
        ∧ (info ≠ s.frameInfo → decode w = .instr .ubxDecode ∧ validate s = .ok)) := by
  rcases engineTurn_cases s w hw with ⟨i, t, hd, -, ht, hacc | hrej⟩ | ⟨-, -, ht⟩
  · exact ⟨t, ht, .inl ⟨i, hd, hacc⟩⟩
  · obtain ⟨c, info, hc, hreject, hinfo⟩ := hrej.exists_reject
    refine ⟨t, ht, .inr ⟨c, info, hc, hreject, fun hne => ?_⟩⟩
    obtain ⟨rfl, hv⟩ := hinfo hne
    exact ⟨hd, hv⟩
  · exact ⟨_, ht, .inr ⟨.illegalCmd, s.frameInfo, by decide, rfl, fun hne => absurd rfl hne⟩⟩

/-- Settles O13: the completion is an accept, whose fields are those of R45, or `reject(code)` of a state that differs
at most in FRAME_INFO, whose effect is that of R303. -/
theorem completionAcceptsOrRejects : Obligations.CompletionAcceptsOrRejects := by
  intro s w hw
  obtain ⟨t, ht, ⟨i, -, hacc⟩ | ⟨c, info, hc, rfl, hinfo⟩⟩ := engineTurn_accepts_or_rejects hw
  · obtain ⟨hbusy, hdone, hovr, hpass, hreason⟩ := hacc.status_fields
    exact ⟨t, ht, hacc.pending_eq, hbusy, hdone, hovr, .inl ⟨hpass, hreason⟩⟩
  · exact ⟨_, ht, rfl, rfl, rfl, rfl, .inr ⟨rfl, hc, reject_eq c _, hinfo⟩⟩

end Sys2Proof.Machine
end

section
/-! PROOFS. The statements of spec/30_encoding.md on the encoder (R96 to R98): encoding and decoding undo each other,
and the published words. -/

namespace Sys2Proof.Machine

/-- Settles O1: a command word gives each of its fields back, and a well-formed operand fits its field. -/
theorem decodeAfterEncodeGivesTheCommand : Obligations.DecodeAfterEncodeGivesTheCommand := decode_encode

/-- Settles O2: the fields a command does not use are 0 in a legal word, so the fields it uses make up the word. -/
theorem encodeAfterDecodeGivesTheWord : Obligations.EncodeAfterDecodeGivesTheWord := fun _ _ => encode_of_decode

/-- Settles O5, by evaluating the decoder on each of the thirteen words. -/
theorem publishedWordsDecode : Obligations.PublishedWordsDecode := by
  unfold Obligations.PublishedWordsDecode
  decide

end Sys2Proof.Machine
end

section
/-! PROOFS. The invariants of the machine (spec/10_state.md R24 to R29, R36, R40 to R43): what keeps a predicate over
every step, said once, and the handshake, IN_BUF's canonical form, the NAV file and OUT_BUF as its four uses. -/

namespace Sys2Proof.Machine

/-! ### What one event and one step can do -/

/-- The engine's turn, inverted: nothing pending and nothing done, or the pending word's completion, as an accept of the
command it decodes to or as a `reject(code)`. -/
theorem engineTurn_inversion {s t : State} (h : engineTurn s = .next t) :
    (s.pending = none ∧ t = s) ∨
    ∃ w, s.pending = some w ∧ ((∃ i, decode w = .instr i ∧ Accepted s i t) ∨
      ∃ c info, c ≠ .ok ∧ t = reject c { s with frameInfo := info }
        ∧ (info ≠ s.frameInfo → decode w = .instr .ubxDecode ∧ validate s = .ok)) := by
  cases hp : s.pending with
  | none =>
    rw [engineTurn_idle s hp] at h
    cases h
    exact .inl ⟨rfl, rfl⟩
  | some w =>
    obtain ⟨u, hu, hcases⟩ := engineTurn_accepts_or_rejects hp
    rw [hu] at h
    cases h
    exact .inr ⟨w, rfl, hcases⟩

/-- What has to be shown of a predicate for every event to keep it: that each single thing an event can do keeps it. -/
structure KeptByEvents (P : State → Prop) : Prop where
  port : ∀ s answer, P s → P { s with port := answer }
  dropped : ∀ s, P s → P { s with status := s.status.overrun }
  taken : ∀ s (addr : Addr) n v, P s → LegalAccess addr.toNat n →
    P (writeTarget (target s.params.nIn addr.toNat) n v s)
  accepted : ∀ s i t, P s → Accepted s i t → P t
  rejected : ∀ s c info, P s → c ≠ .ok → P (reject c { s with frameInfo := info })
  reset : ∀ s, P s → P (resetEvent s)

theorem KeptByEvents.perform {P : State → Prop} (k : KeptByEvents P) {s t : State} {e : Event} (hs : P s)
    (h : perform e s = .next t) : P t := by
  cases e with
  | reset =>
    cases h
    exact k.reset s hs
  | engine =>
    obtain ⟨-, rfl⟩ | ⟨w, -, ⟨i, -, hacc⟩ | ⟨c, info, hc, rfl, -⟩⟩ := engineTurn_inversion h
    · exact hs
    · exact k.accepted s i t hs hacc
    · exact k.rejected s c info hs hc
  | read addr n =>
    cases h
    obtain ⟨-, h⟩ | ⟨-, h⟩ := hostRead_cases addr n s <;> exact h ▸ k.port s _ hs
  | write addr n v =>
    cases h
    obtain ⟨-, h⟩ | ⟨-, -, -, h⟩ | ⟨hl, -, h⟩ := hostWrite_cases addr n v s <;> rw [h]
    · exact k.port s _ hs
    · exact k.port _ _ (k.dropped s hs)
    · exact k.port _ _ (k.taken s addr n v hs hl)

/-- A predicate that events keep, and that does not speak of the schedule, is kept by every step. -/
theorem KeptByEvents.step {P : State → Prop} (k : KeptByEvents P)
    (schedule : ∀ s rest, P s → P { s with schedule := rest }) (s t : State) (hs : P s) (h : step s = .next t) :
    P t := by
  obtain ⟨e, rest, he, -⟩ := step_eq s
  exact k.perform (schedule s rest hs) (he ▸ h)

/-! ### The handshake (R25 to R29, R43) -/

/-- The handshake speaks of PENDING and of four fields of STATUS. -/
theorem State.Handshake.congr {s t : State} (h : s.Handshake) (hp : t.pending = s.pending)
    (hbusy : t.status.busy = s.status.busy) (hdone : t.status.done = s.status.done)
    (hpass : t.status.pass = s.status.pass) (hreason : t.status.reason = s.status.reason) : t.Handshake where
  busy_iff_pending := by rw [hbusy, hp, h.busy_iff_pending]
  done_not_busy := by rw [hdone, hbusy]; exact h.done_not_busy
  pass_ok := by rw [hpass, hreason]; exact h.pass_ok
  fail_reason := by rw [hdone, hpass, hreason]; exact h.fail_reason

/-- The acceptance of a command by CMD keeps PASS and REASON, and makes BUSY and PENDING agree again (R90). -/
theorem issue_handshake (w : Word) (s : State) (h : s.Handshake) : (issue w s).Handshake where
  busy_iff_pending := rfl
  done_not_busy := nofun
  pass_ok := h.pass_ok
  fail_reason := nofun

theorem Accepted.handshake {s t : State} {i : Instr} (h : Accepted s i t) : t.Handshake := by
  obtain ⟨hbusy, -, -, hpass, hreason⟩ := h.status_fields
  refine ⟨?_, fun _ => hbusy, fun _ => hreason, fun _ hfail => ?_⟩
  · rw [hbusy, h.pending_eq]
    rfl
  · rw [hpass] at hfail
    cases hfail

theorem reject_handshake (c : Reason) (s : State) (hc : c ≠ .ok) : (reject c s).Handshake :=
  ⟨rfl, fun _ => rfl, nofun, fun _ _ => hc⟩

theorem writeTarget_handshake (g : Target) (n : AccessSize) (v : Word) (s : State) (h : s.Handshake) :
    (writeTarget g n v s).Handshake := by
  cases g with
  | cmd => exact issue_handshake v s h
  | status =>
    exact h.congr rfl (s.status.hostWrite_busy v) (s.status.hostWrite_done v) (s.status.hostWrite_pass v)
      (s.status.hostWrite_reason v)
  | inSize | ckStart | ckEnd | keyRate | inBuf | other => exact h.congr rfl rfl rfl rfl rfl

theorem keptByEvents_handshake : KeptByEvents State.Handshake where
  port _ _ h := h.congr rfl rfl rfl rfl rfl
  dropped _ h := h.congr rfl rfl rfl rfl rfl
  taken s _ n v h _ := writeTarget_handshake _ n v s h
  accepted _ _ _ _ hacc := hacc.handshake
  rejected _ c _ _ hc := reject_handshake c _ hc
  reset _ _ := ⟨rfl, nofun, nofun, nofun⟩

/-- Settles O44: CMD's acceptance and the two ends of a command make the handshake, and nothing else touches it. -/
theorem stepKeepsTheHandshake : Obligations.StepKeepsTheHandshake :=
  keptByEvents_handshake.step fun _ _ h => h.congr rfl rfl rfl rfl rfl

/-! ### IN_BUF (R41) -/

theorem State.Canonical.congr {s t : State} (h : s.Canonical) (hparams : t.params = s.params)
    (hin : t.inBuf = s.inBuf) : t.Canonical where
  params_ok := hparams ▸ h.params_ok
  rising := hin ▸ h.rising
  inside := by rw [hparams, hin]; exact h.inside

/-- An offset's target is a byte of IN_BUF only where the offset lies in IN_BUF's part of the window (R61, R64). -/
theorem target_eq_inBuf {nIn a i : Nat} (h : target nIn a = .inBuf i) : a = 0x400 + i ∧ i < nIn := by
  unfold target at h
  split_ifs at h
  rw [Target.inBuf.injEq] at h
  omega

/-- A legal capacity is a multiple of 4, so a legal access that begins in IN_BUF ends in it. -/
theorem LegalAccess.inBuf_end {nIn i : Nat} {n : AccessSize} (h : LegalAccess (0x400 + i) n) (hn : nIn % 4 = 0)
    (hi : i < nIn) : i + n.bytes ≤ nIn := by
  obtain ⟨haligned, -⟩ := h
  cases n <;> simp only [AccessSize.bytes] at haligned ⊢ <;> omega

theorem writeTarget_inBuf_canonical {s : State} {i : Nat} {n : AccessSize} (v : Word) (h : s.Canonical)
    (hend : i + n.bytes ≤ s.params.nIn) : (writeTarget (.inBuf i) n v s).Canonical where
  params_ok := h.params_ok
  rising := Memory.writeLE_wf _ _ _ _ h.rising
  inside := Memory.writeLE_within _ _ _ _ _ hend h.inside

theorem keptByEvents_canonical : KeptByEvents State.Canonical where
  port _ _ h := h.congr rfl rfl
  dropped _ h := h.congr rfl rfl
  taken s addr n v h hl := by
    cases ht : target s.params.nIn addr.toNat with
    | inBuf i =>
      obtain ⟨ha, hi⟩ := target_eq_inBuf ht
      obtain ⟨-, -, hn⟩ := h.params_ok
      exact writeTarget_inBuf_canonical v h ((ha ▸ hl).inBuf_end hn hi)
    | cmd | status | inSize | ckStart | ckEnd | keyRate | other => exact h.congr rfl rfl
  accepted _ _ _ h hacc := h.congr hacc.operandsKept.params hacc.operandsKept.inBuf
  rejected _ _ _ h _ := h.congr rfl rfl
  reset _ h := ⟨h.params_ok, rfl, rfl⟩

/-- Settles O45: only a taken write to IN_BUF and reset change the memory, and an aligned write ends in the capacity. -/
theorem stepKeepsTheMemoryCanonical : Obligations.StepKeepsTheMemoryCanonical :=
  keptByEvents_canonical.step fun _ _ h => h.congr rfl rfl

/-! ### The NAV file (R28, R40) -/

/-- A register of a field of `n` bytes reads as the extension of the field (R40). -/
def ExtensionOf (n : Nat) (signed : Bool) (v : Word) : Prop :=
  v = if signed then signExtendBytes v n else (v.setWidth (8 * n)).setWidth 32

/-- The low bits of a sign extension are the bits extended. -/
theorem setWidth_signExtend_of_le {w v : Nat} (x : BitVec w) (h : w ≤ v) : (x.signExtend v).setWidth w = x := by
  apply BitVec.eq_of_getLsbD_eq
  intro i hi
  rw [BitVec.getLsbD_setWidth, BitVec.getLsbD_signExtend]
  simp [hi, hi.trans_le h]

theorem signExtendBytes_idem (v : Word) (n : Nat) (hn : n ≤ 4) :
    signExtendBytes (signExtendBytes v n) n = signExtendBytes v n := by
  unfold signExtendBytes
  rw [setWidth_signExtend_of_le _ (by omega)]

/-- An extracted field is the extension of its own low bytes (R160). -/
theorem extract_extensionOf (s : State) (i n : Nat) (signed : Bool) (hn : n ≤ 4) :
    ExtensionOf n signed (extract s i n signed) := by
  unfold ExtensionOf
  cases signed with
  | true => exact (signExtendBytes_idem _ n hn).symm
  | false =>
    have hlt : (le s i n).toNat < 2 ^ (8 * n) := by
      rw [Nat.pow_mul]
      exact (composeLE_toNat s.inByte i n hn).2
    apply BitVec.eq_of_toNat_eq
    rw [extract_unsigned, if_neg Bool.false_ne_true, BitVec.toNat_setWidth, BitVec.toNat_setWidth, Nat.mod_eq_of_lt hlt,
      Nat.mod_eq_of_lt (le s i n).isLt]

theorem navTable_bytes_le : ∀ k : Fin 32, navTable[k].bytes ≤ 4 := by decide

theorem navRecord_extended (s : State) (k : Fin 32) :
    ExtensionOf navTable[k].bytes navTable[k].signed (Vector.ofFn (navValue s))[k] := by
  have hk : (Vector.ofFn (navValue s))[k] = navValue s k := by simp
  rw [hk]
  exact extract_extensionOf s _ _ _ (navTable_bytes_le k)

theorem State.NavExtended.congr {s t : State} (h : s.NavExtended) (hk : NavKept s t) : t.NavExtended := by
  obtain ⟨hnav, hvalid⟩ := hk
  constructor
  · rw [hnav]; exact h.extended
  · rw [hnav, hvalid]; exact h.zero_until_valid

/-- The accepted commands but ubx.decode keep NAV and NAV_VALID; ubx.decode commits the whole record (R40). -/
theorem Accepted.nav_cases {s t : State} {i : Instr} (h : Accepted s i t) :
    NavKept s t ∨ (i = .ubxDecode ∧ t.nav = Vector.ofFn (navValue s) ∧ t.status.navValid = true) := by
  cases h with
  | ubxDecode => exact .inr ⟨rfl, rfl, rfl⟩
  | nop | ckCompute | ckVerify | frameValidate | extU8 | extU16 | extU32 | extI8 | extI16 | extI32 | cfgNmeaOff
  | cfgRate => exact .inl ⟨rfl, rfl⟩

theorem writeTarget_navKept (g : Target) (n : AccessSize) (v : Word) (s : State) :
    NavKept s (writeTarget g n v s) := by
  refine ⟨?_, writeTarget_navValid g n v s⟩
  cases g <;> rfl

/-- A register of zeros is the extension of any field (R47). -/
theorem navZero_extended (k : Fin 32) :
    ExtensionOf navTable[k].bytes navTable[k].signed (Vector.replicate 32 0#32)[k] := by
  revert k
  unfold ExtensionOf
  decide

theorem keptByEvents_navExtended : KeptByEvents State.NavExtended where
  port _ _ h := h.congr ⟨rfl, rfl⟩
  dropped _ h := h.congr ⟨rfl, rfl⟩
  taken s _ n v h _ := h.congr (writeTarget_navKept _ n v s)
  accepted s i t h hacc := by
    obtain hk | ⟨-, hnav, hvalid⟩ := hacc.nav_cases
    · exact h.congr hk
    · refine ⟨?_, by simp [hvalid]⟩
      rw [hnav]
      exact navRecord_extended s
  rejected _ _ _ h _ := h.congr ⟨rfl, rfl⟩
  reset _ _ := ⟨navZero_extended, fun _ => rfl⟩

/-- Settles O46: a committed record holds extracted fields, and reset the zeros; all else keeps NAV and NAV_VALID. -/
theorem stepKeepsNavExtended : Obligations.StepKeepsNavExtended :=
  keptByEvents_navExtended.step fun _ _ h => h.congr ⟨rfl, rfl⟩

/-! ### OUT_BUF (R36, R42) -/

theorem State.OutFramed.congr {s t : State} (h : s.OutFramed) (hk : OutKept s t) : t.OutFramed := by
  obtain ⟨hbuf, hlen⟩ := hk
  unfold State.OutFramed
  rw [hbuf, hlen]
  exact h

/-- The accepted commands but cfg.* keep OUT_BUF and OUT_LEN; cfg.* commits a built frame (R241, R242). -/
theorem Accepted.out_cases {s t : State} {i : Instr} (h : Accepted s i t) :
    OutKept s t ∨ ((i = .cfgNmeaOff ∨ ∃ r, i = .cfgRate r) ∧
      t.outLen = 17 ∧ ∃ key value, t.outBuf = build key value) := by
  cases h with
  | cfgNmeaOff => exact .inr ⟨.inl rfl, rfl, _, _, rfl⟩
  | cfgRate rate => exact .inr ⟨.inr ⟨rate, rfl⟩, rfl, _, _, rfl⟩
  | nop | ckCompute | ckVerify | frameValidate | ubxDecode | extU8 | extU16 | extU32 | extI8 | extI16 | extI32 =>
    exact .inl ⟨rfl, rfl⟩

theorem writeTarget_outKept (g : Target) (n : AccessSize) (v : Word) (s : State) :
    OutKept s (writeTarget g n v s) := by
  constructor <;> cases g <;> rfl

theorem keptByEvents_outFramed : KeptByEvents State.OutFramed where
  port _ _ h := h.congr ⟨rfl, rfl⟩
  dropped _ h := h.congr ⟨rfl, rfl⟩
  taken s _ n v h _ := h.congr (writeTarget_outKept _ n v s)
  accepted _ _ _ h hacc := hacc.out_cases.elim h.congr fun ⟨_, hlen, hbuilt⟩ => .inr ⟨hlen, hbuilt⟩
  rejected _ _ _ h _ := h.congr ⟨rfl, rfl⟩
  reset _ _ := .inl ⟨rfl, rfl⟩

/-- Settles O47: cfg.* commits a whole built frame with its length, reset the zeros, and all else keeps both. -/
theorem stepKeepsOutFramed : Obligations.StepKeepsOutFramed :=
  keptByEvents_outFramed.step fun _ _ h => h.congr ⟨rfl, rfl⟩

/-! ### The state after reset (R47) -/

/-- The four invariants hold after reset for any legal parameters and any draw. -/
theorem resetWith_inv (p : Config.Params) (n : Nat) (hp : p.Ok) : (State.resetWith p n).Inv where
  handshake := ⟨rfl, nofun, nofun, nofun⟩
  canonical := ⟨hp, rfl, rfl⟩
  nav := ⟨navZero_extended, fun _ => rfl⟩
  out := .inl ⟨rfl, rfl⟩

/-- Settles O48: nothing is pending, IN_BUF holds no written byte, and NAV and OUT_BUF are zero. -/
theorem resetMeetsTheInvariant : Obligations.ResetMeetsTheInvariant :=
  ⟨resetWith_inv, resetWith_inv Config.Params.reference 0 (by decide)⟩

end Sys2Proof.Machine
end

section
/-! PROOFS. The step itself (spec/20_memory.md R69, spec/30_encoding.md R90 and R97, spec/60_exceptions.md R301): which
event it performs, that it always answers, and that a command in flight completes. -/

namespace Sys2Proof.Machine

/-! ### Which event a step performs -/

theorem step_of_schedule {s : State} {e : Event} {rest : List Event} (h : s.schedule = e :: rest) :
    step s = perform e { s with schedule := rest } := by
  rw [step, nextStep, h]

theorem step_of_empty {s : State} (h : s.schedule = []) : step s = engineTurn s := by
  rw [step, nextStep, h]

/-- Settles O6: the schedule's head is the event, and its tail stays in the state. -/
theorem stepPerformsTheNextEvent : Obligations.StepPerformsTheNextEvent := fun _ _ _ => step_of_schedule

theorem engineTurn_of_instr {s : State} {w : Word} {i : Instr} (hw : s.pending = some w) (hd : decode w = .instr i) :
    engineTurn s = exec i s := by
  simp only [engineTurn, hw, completeWord, hd]

/-- Settles O7: both kinds of step are the engine's turn, which is the completion of the pending word. -/
theorem stepRunsTheDecodedCommand : Obligations.StepRunsTheDecodedCommand :=
  fun s _ _ hw hd => ⟨fun h => (step_of_empty h).trans (engineTurn_of_instr hw hd),
    fun rest h => (step_of_schedule h).trans (engineTurn_of_instr (s := { s with schedule := rest }) hw hd)⟩

theorem decode_of_decodeTableWord {nbits w : Nat} {i : Instr} (h : decodeTableWord nbits w = some i) :
    decode (tableWord nbits w) = .instr i := by
  unfold decodeTableWord at h
  split at h <;> cases h
  assumption

/-- Settles O8: the placed word is pending, and the engine's turn, first in the schedule, completes it. -/
theorem placedWordRunsNext : Obligations.PlacedWordRunsNext := fun s nbits w _ h =>
  engineTurn_of_instr (s := issue (tableWord nbits w) s) rfl (decode_of_decodeTableWord h)

/-! ### Every step answers, and uses up one event of the schedule -/

theorem Accepted.outsideKept {s t : State} {i : Instr} (h : Accepted s i t) : OutsideKept s t := by
  cases h <;> exact ⟨rfl, rfl⟩

theorem engineTurn_answers (s : State) : ∃ t, engineTurn s = .next t := by
  cases hp : s.pending with
  | none => exact ⟨s, engineTurn_idle s hp⟩
  | some w =>
    obtain ⟨t, ht, -⟩ := engineTurn_accepts_or_rejects hp
    exact ⟨t, ht⟩

theorem perform_answers (e : Event) (s : State) : ∃ t, perform e s = .next t := by
  cases e with
  | engine => exact engineTurn_answers s
  | read | write | reset => exact ⟨_, rfl⟩

/-- Settles O14: whichever event the step performs, it answers a next state. -/
theorem everyStepHasANextState : Obligations.EveryStepHasANextState := fun s => by
  obtain ⟨e, rest, hs, -⟩ := step_eq s
  obtain ⟨t, ht⟩ := perform_answers e { s with schedule := rest }
  exact ⟨t, hs.trans ht⟩

theorem writeTarget_schedule (g : Target) (n : AccessSize) (v : Word) (s : State) :
    (writeTarget g n v s).schedule = s.schedule := by
  cases g <;> rfl

/-- No event touches the events after it. -/
theorem keptByEvents_schedule (rest : List Event) : KeptByEvents fun s => s.schedule = rest where
  port _ _ h := h
  dropped _ h := h
  taken s _ n v h _ := (writeTarget_schedule _ n v s).trans h
  accepted _ _ _ h hacc := hacc.outsideKept.1.trans h
  rejected _ _ _ h _ := h
  reset _ h := h

/-! ### A command in flight completes (spec/10_state.md section 5) -/

/-- After the engine's turn nothing is pending, and with the handshake BUSY is 0. -/
theorem engineTurn_completes {s : State} (hs : s.Handshake) :
    ∃ t, engineTurn s = .next t ∧ t.pending = none ∧ t.status.busy = false := by
  cases hp : s.pending with
  | none => exact ⟨s, engineTurn_idle s hp, hp, by rw [hs.busy_iff_pending, hp]; rfl⟩
  | some w =>
    obtain ⟨t, ht, hpend, hbusy, -⟩ := completionAcceptsOrRejects s w hp
    exact ⟨t, ht, hpend, hbusy⟩

theorem run_succ {s t : State} (h : step s = .next t) (k : Nat) : core.run (k + 1) s = core.run k t := by
  have hcore : core.step s = .next t := h
  simp only [Host.Core.run, hcore]

/-- As many steps as the schedule has events, and then the engine's turn, complete the command in flight. -/
theorem run_schedule_completes (l : List Event) : ∀ s : State, s.schedule = l → s.Handshake →
    ∃ t, core.run (l.length + 1) s = .next t ∧ t.pending = none ∧ t.status.busy = false := by
  induction l with
  | nil =>
    intro s hl hs
    obtain ⟨t, ht, hdone⟩ := engineTurn_completes hs
    exact ⟨t, run_succ ((step_of_empty hl).trans ht) 0, hdone⟩
  | cons e rest ih =>
    intro s hl hs
    obtain ⟨u, hu⟩ := perform_answers e { s with schedule := rest }
    have hstep : step s = .next u := (step_of_schedule hl).trans hu
    obtain ⟨t, ht, hdone⟩ := ih u ((keptByEvents_schedule rest).perform rfl hu) (stepKeepsTheHandshake s u hs hstep)
    exact ⟨t, (run_succ hstep _).trans ht, hdone⟩

/-- Settles O15, by induction on the schedule: each event leaves the rest of it, and the handshake. -/
theorem acceptedCommandsComplete : Obligations.AcceptedCommandsComplete :=
  fun s hs => run_schedule_completes s.schedule s rfl hs

end Sys2Proof.Machine
end

section
/-! PROOFS. Which event writes a register (spec/10_state.md R34 to R44, spec/20_memory.md R69): the NAV file and the
result registers by the engine, the operands by the host. -/

namespace Sys2Proof.Machine

/-! ### What a command writes of the results -/

theorem Accepted.ckResult_cases {s t : State} {i : Instr} (h : Accepted s i t) :
    t.ckResult = s.ckResult ∨ i = .ckCompute := by
  cases h with
  | ckCompute => exact .inr rfl
  | nop | ckVerify | frameValidate | ubxDecode | extU8 | extU16 | extU32 | extI8 | extI16 | extI32 | cfgNmeaOff
  | cfgRate => exact .inl rfl

/-- The six extractors, by their offset. -/
def extCommands (off : Nat) : List Instr :=
  [.extU8 off, .extU16 off, .extU32 off, .extI8 off, .extI16 off, .extI32 off]

theorem Accepted.extData_cases {s t : State} {i : Instr} (h : Accepted s i t) :
    t.extData = s.extData ∨ ∃ off, i ∈ extCommands off := by
  cases h with
  | extU8 off | extU16 off | extU32 off | extI8 off | extI16 off | extI32 off =>
    exact .inr ⟨off, by simp [extCommands]⟩
  | nop | ckCompute | ckVerify | frameValidate | ubxDecode | cfgNmeaOff | cfgRate => exact .inl rfl

theorem Accepted.frameInfo_cases {s t : State} {i : Instr} (h : Accepted s i t) :
    t.frameInfo = s.frameInfo ∨ ((i = .frameValidate ∨ i = .ubxDecode) ∧ validate s = .ok) := by
  cases h with
  | frameValidate hv => exact .inr ⟨.inl rfl, hv⟩
  | ubxDecode hv => exact .inr ⟨.inr rfl, hv⟩
  | nop | ckCompute | ckVerify | extU8 | extU16 | extU32 | extI8 | extI16 | extI32 | cfgNmeaOff | cfgRate =>
    exact .inl rfl

/-! ### The host writes no result (R34 to R36, R39, R40, R42) -/

/-- NAV and the result registers are as before. -/
structure ResultsKept (s t : State) : Prop where
  nav : NavKept s t
  out : OutKept s t
  ckResult : t.ckResult = s.ckResult
  extData : t.extData = s.extData
  frameInfo : t.frameInfo = s.frameInfo

theorem writeTarget_resultsKept (g : Target) (n : AccessSize) (v : Word) (s : State) :
    ResultsKept s (writeTarget g n v s) := by
  refine ⟨writeTarget_navKept g n v s, writeTarget_outKept g n v s, ?_, ?_, ?_⟩ <;> cases g <;> rfl

theorem perform_host_resultsKept {s t : State} {e : Event} (he : e ≠ .engine) (hr : e ≠ .reset)
    (h : perform e s = .next t) : ResultsKept s t := by
  obtain ⟨ht, -⟩ | ⟨addr, n, v, -, -, ⟨-, -, rfl⟩ | ⟨-, rfl⟩⟩ := perform_host_cases s t e h he hr
  · obtain ⟨answer, rfl⟩ : ∃ answer, t = { s with port := answer } := ⟨_, ht⟩
    exact ⟨⟨rfl, rfl⟩, ⟨rfl, rfl⟩, rfl, rfl, rfl⟩
  · exact ⟨⟨rfl, rfl⟩, ⟨rfl, rfl⟩, rfl, rfl, rfl⟩
  · obtain ⟨hnav, hout, hck, hext, hinfo⟩ := writeTarget_resultsKept (target s.params.nIn addr.toNat) n v s
    exact ⟨hnav, hout, hck, hext, hinfo⟩

/-- Settles O49: a host event and a rejection keep NAV, and of the accepted commands only ubx.decode writes it. -/
theorem navChangesOnlyByAcceptedDecode : Obligations.NavChangesOnlyByAcceptedDecode := by
  intro s t e h hne
  by_cases hr : e = .reset
  · exact .inl hr
  by_cases he : e = .engine
  · subst he
    obtain ⟨-, rfl⟩ | ⟨w, hw, ⟨i, hd, hacc⟩ | ⟨c, info, -, rfl, -⟩⟩ := engineTurn_inversion h
    · exact absurd rfl hne
    · obtain ⟨hnav, -⟩ | ⟨rfl, -, hvalid⟩ := hacc.nav_cases
      · exact absurd hnav hne
      · obtain ⟨-, -, -, hpass, -⟩ := hacc.status_fields
        exact .inr ⟨rfl, ⟨w, hw, hd⟩, hpass, hvalid⟩
    · exact absurd rfl hne
  · exact absurd (perform_host_resultsKept he hr h).nav.1 hne

/-- Settles O51: a host event and a rejection keep the results, but for FRAME_INFO after a passed validation, and each
accepted command writes those of its family. -/
theorem resultRegistersHaveOneWriter : Obligations.ResultRegistersHaveOneWriter := by
  intro s t e h hr
  by_cases he : e = .engine
  · subst he
    obtain ⟨-, rfl⟩ | ⟨w, hw, ⟨i, hd, hacc⟩ | ⟨c, info, -, rfl, hinfo⟩⟩ := engineTurn_inversion h
    · exact ⟨(absurd rfl ·), (absurd rfl ·), (absurd rfl ·), (absurd ⟨rfl, rfl⟩ ·)⟩
    · obtain ⟨-, -, -, hpass, -⟩ := hacc.status_fields
      refine ⟨fun hne => ?_, fun hne => ?_, fun hne => ?_, fun hne => ?_⟩
      · obtain rfl := hacc.ckResult_cases.resolve_left hne
        exact ⟨rfl, w, hw, hd, hpass⟩
      · obtain ⟨off, hi⟩ := hacc.extData_cases.resolve_left hne
        exact ⟨rfl, w, off, hw, hd ▸ List.mem_map_of_mem hi, hpass⟩
      · obtain ⟨rfl | rfl, hv⟩ := hacc.frameInfo_cases.resolve_left hne
        · exact ⟨rfl, w, hw, .inl hd, hv⟩
        · exact ⟨rfl, w, hw, .inr hd, hv⟩
      · obtain ⟨rfl | ⟨r, rfl⟩, -⟩ := hacc.out_cases.resolve_left hne
        · exact ⟨rfl, w, hw, .inl hd, hpass⟩
        · exact ⟨rfl, w, hw, .inr ⟨r, hd⟩, hpass⟩
    · refine ⟨(absurd rfl ·), (absurd rfl ·), fun hne => ?_, (absurd ⟨rfl, rfl⟩ ·)⟩
      exact ⟨rfl, w, hw, (hinfo hne).imp_left .inr⟩
  · obtain ⟨-, hout, hck, hext, hinfo⟩ := perform_host_resultsKept he hr h
    exact ⟨(absurd hck ·), (absurd hext ·), (absurd hinfo ·), (absurd hout ·)⟩

/-! ### The engine writes no operand, and the host each at its own offset (R44, R69) -/

theorem engineTurn_operandsKept {s t : State} (h : engineTurn s = .next t) : OperandsKept s t := by
  obtain ⟨-, rfl⟩ | ⟨w, -, hk, -⟩ := engineTurn_status_cases h
  · exact ⟨rfl, rfl, rfl, rfl, rfl, rfl, rfl⟩
  · exact hk

/-- Each operand is reached by a write to its own offset alone (R64). -/
theorem writeTarget_operand_offset (nIn a : Nat) (n : AccessSize) (v : Word) (s : State) :
    ((writeTarget (target nIn a) n v s).inSize ≠ s.inSize → a = 0x008)
    ∧ ((writeTarget (target nIn a) n v s).ckStart ≠ s.ckStart → a = 0x00C)
    ∧ ((writeTarget (target nIn a) n v s).ckEnd ≠ s.ckEnd → a = 0x010)
    ∧ ((writeTarget (target nIn a) n v s).keyRate ≠ s.keyRate → a = 0x020)
    ∧ ((writeTarget (target nIn a) n v s).inBuf ≠ s.inBuf → 0x400 ≤ a ∧ a < 0x400 + nIn)
    ∧ (writeTarget (target nIn a) n v s).draws = s.draws := by
  unfold target
  split_ifs <;> simp [writeTarget, *]

/-- Settles O52: the engine, a read, a BusError and a write to no operand keep them all, and a dropped write does. -/
theorem operandsAreWrittenOnlyByTheHost : Obligations.OperandsAreWrittenOnlyByTheHost := by
  intro s t e h hr hne
  have he : e ≠ .engine := by
    rintro rfl
    exact hne (engineTurn_operandsKept h)
  have hbusy : s.status.busy = false := by
    by_contra hb
    exact hne (perform_host_busy_frame (by simpa using hb) he hr h).1
  obtain ⟨ht, -⟩ | ⟨addr, n, v, rfl, hl, ⟨hb, -⟩ | ⟨-, rfl⟩⟩ := perform_host_cases s t e h he hr
  · obtain ⟨answer, rfl⟩ : ∃ answer, t = { s with port := answer } := ⟨_, ht⟩
    exact absurd ⟨rfl, rfl, rfl, rfl, rfl, rfl, rfl⟩ hne
  · simp [hbusy] at hb
  · obtain ⟨hsize, hstart, hend, hkey, hin, hdraws⟩ :=
      writeTarget_operand_offset s.params.nIn addr.toNat n v s
    exact ⟨hbusy, addr, n, v, rfl, hl, fun hc => BitVec.eq_of_toNat_eq (hsize hc),
      fun hc => BitVec.eq_of_toNat_eq (hstart hc), fun hc => BitVec.eq_of_toNat_eq (hend hc),
      fun hc => BitVec.eq_of_toNat_eq (hkey hc), hin, writeTarget_params _ n v s, hdraws⟩

end Sys2Proof.Machine
end

section
/-! PROOFS. The frames of the commands (spec/60_exceptions.md R303, spec/10_state.md sections 2 to 5): what each family
leaves unchanged, in the state and in the host window. -/

namespace Sys2Proof.Machine

/-! ### What every command leaves -/

theorem exec_inversion {i : Instr} {s t : State} (h : exec i s = .next t) : Accepted s i t ∨ Rejected s i t := by
  obtain ⟨u, hu, hcases⟩ := exec_cases i s
  rw [hu] at h
  cases h
  exact hcases

/-- The frame of any command: what no command writes, and of each result the family that writes it. -/
structure CommandFrame (i : Instr) (s t : State) : Prop where
  operands : OperandsKept s t
  outside : OutsideKept s t
  ovr : t.status.ovr = s.status.ovr
  nav : NavKept s t ∨ (i = .ubxDecode ∧ t.status.pass = true)
  out : OutKept s t ∨ i = .cfgNmeaOff ∨ ∃ r, i = .cfgRate r
  ckResult : t.ckResult = s.ckResult ∨ (i = .ckCompute ∧ t.status.pass = true)
  extData : t.extData = s.extData ∨ ((∃ off, i ∈ extCommands off) ∧ t.status.pass = true)
  frameInfo : t.frameInfo = s.frameInfo ∨
    (((i = .frameValidate ∧ t.status.pass = true) ∨ i = .ubxDecode) ∧ validate s = .ok)

theorem Accepted.commandFrame {i : Instr} {s t : State} (h : Accepted s i t) : CommandFrame i s t := by
  obtain ⟨-, -, hovr, hpass, -⟩ := h.status_fields
  exact
    { operands := h.operandsKept
      outside := h.outsideKept
      ovr := hovr
      nav := h.nav_cases.imp_right fun ⟨hi, _⟩ => ⟨hi, hpass⟩
      out := h.out_cases.imp_right And.left
      ckResult := h.ckResult_cases.imp_right (⟨·, hpass⟩)
      extData := h.extData_cases.imp_right (⟨·, hpass⟩)
      frameInfo := h.frameInfo_cases.imp_right (And.imp_left (Or.imp_left (⟨·, hpass⟩))) }

/-- A rejection writes no result but FRAME_INFO, after a ubx.decode's validation (R303). -/
theorem Rejected.commandFrame {i : Instr} {s t : State} (h : Rejected s i t) : CommandFrame i s t := by
  obtain ⟨c, info, -, rfl, hinfo⟩ := h.exists_reject
  exact
    { operands := ⟨rfl, rfl, rfl, rfl, rfl, rfl, rfl⟩
      outside := ⟨rfl, rfl⟩
      ovr := rfl
      nav := .inl ⟨rfl, rfl⟩
      out := .inl ⟨rfl, rfl⟩
      ckResult := .inl rfl
      extData := .inl rfl
      frameInfo := (em (info = s.frameInfo)).imp_right fun hne => (hinfo hne).imp_left .inr }

theorem exec_commandFrame {i : Instr} {s t : State} (h : exec i s = .next t) : CommandFrame i s t :=
  (exec_inversion h).elim Accepted.commandFrame Rejected.commandFrame

/-! ### The window after a command -/

/-- Where the operands are as before, the window is as before outside STATUS and the places of the results that
changed. -/
theorem windowKeptExcept_of_results {s t : State} {changed : Nat → Prop} (hops : OperandsKept s t)
    (hstatus : ∀ o, inStatus o → changed o)
    (hck : t.ckResult = s.ckResult ∨ ∀ o, 0x014 ≤ o ∧ o < 0x018 → changed o)
    (hext : t.extData = s.extData ∨ ∀ o, 0x018 ≤ o ∧ o < 0x01C → changed o)
    (hlen : t.outLen = s.outLen ∨ ∀ o, 0x01C ≤ o ∧ o < 0x020 → changed o)
    (hinfo : t.frameInfo = s.frameInfo ∨ ∀ o, 0x028 ≤ o ∧ o < 0x02C → changed o)
    (hnav : t.nav = s.nav ∨ ∀ o, 0x040 ≤ o ∧ o < 0x0C0 → changed o)
    (hbuf : t.outBuf = s.outBuf ∨ ∀ o, 0x100 ≤ o ∧ o ≤ 0x110 → changed o) :
    WindowKeptExcept changed s t := by
  intro o ho
  have kept {P : Prop} {r : Nat → Prop} (h : P ∨ ∀ o, r o → changed o) (hr : r o) : P :=
    h.resolve_right fun hc => ho (hc o hr)
  refine s.byteAt_congr t o (fun _ => s.regAt_congr t _ (fun ha => ?_) (fun _ => hops.inSize) (fun _ => hops.ckStart)
    (fun _ => hops.ckEnd) (fun ha => kept hck ?_) (fun ha => kept hext ?_) (fun ha => kept hlen ?_)
    (fun _ => hops.keyRate) (fun _ => hops.params) (fun ha => kept hinfo ?_) (fun ha => kept hnav ?_))
    (fun hlo hhi => kept hbuf ⟨hlo, hhi⟩) hops.params hops.inBuf hops.draws
  · exact absurd (hstatus o ⟨by omega, by omega⟩) ho
  all_goals omega

/-! ### The families -/

/-- Settles O29: neither command is of a family that writes a result. -/
theorem statusOnlyCommandsKeepTheRest : Obligations.StatusOnlyCommandsKeepTheRest := by
  intro i s t hi h
  have f := exec_commandFrame h
  obtain ⟨hnav, hout, hck, hext, hinfo⟩ : ResultsKept s t := by
    obtain rfl | rfl := hi <;>
      exact ⟨f.nav.resolve_right (by simp), f.out.resolve_right (by simp), f.ckResult.resolve_right (by simp),
        f.extData.resolve_right (by simp [extCommands]), f.frameInfo.resolve_right (by simp)⟩
  exact ⟨f.operands, f.outside, hnav, hout, hck, hext, hinfo, f.ovr,
    windowKeptExcept_of_results f.operands (fun _ => id) (.inl hck) (.inl hext) (.inl hout.2) (.inl hinfo)
      (.inl hnav.1) (.inl hout.1)⟩

/-- Settles O30: of the results ck.compute writes CK_RESULT, and that only when it is accepted. -/
theorem ckComputeKeepsTheRest : Obligations.CkComputeKeepsTheRest := by
  intro s t h
  have f := exec_commandFrame h
  have hnav := f.nav.resolve_right (by simp)
  have hout := f.out.resolve_right (by simp)
  have hext := f.extData.resolve_right (by simp [extCommands])
  have hinfo := f.frameInfo.resolve_right (by simp)
  exact ⟨f.operands, f.outside, hnav, hout, hext, hinfo, f.ovr,
    fun hfail => f.ckResult.resolve_right (by simp [hfail]),
    windowKeptExcept_of_results f.operands (fun _ => .inl) (.inr fun _ => .inr) (.inl hext) (.inl hout.2) (.inl hinfo)
      (.inl hnav.1) (.inl hout.1)⟩

/-- Settles O31: of the results an extractor writes EXT_DATA, and that only when it is accepted. -/
theorem extractorsKeepTheRest : Obligations.ExtractorsKeepTheRest := by
  intro i off s t hi h
  have f := exec_commandFrame h
  have hnav := f.nav.resolve_right (by rintro ⟨rfl, -⟩; simp at hi)
  have hout := f.out.resolve_right (by rintro (rfl | ⟨r, rfl⟩) <;> simp at hi)
  have hck := f.ckResult.resolve_right (by rintro ⟨rfl, -⟩; simp at hi)
  have hinfo := f.frameInfo.resolve_right (by rintro ⟨⟨rfl, -⟩ | rfl, -⟩ <;> simp at hi)
  exact ⟨f.operands, f.outside, hnav, hout, hck, hinfo, f.ovr, fun hfail => f.extData.resolve_right (by simp [hfail]),
    windowKeptExcept_of_results f.operands (fun _ => .inl) (.inl hck) (.inr fun _ => .inr) (.inl hout.2) (.inl hinfo)
      (.inl hnav.1) (.inl hout.1)⟩

/-- Settles O32: of the results frame.validate writes FRAME_INFO, and that only when it is accepted. -/
theorem frameValidateKeepsTheRest : Obligations.FrameValidateKeepsTheRest := by
  intro s t h
  have f := exec_commandFrame h
  have hnav := f.nav.resolve_right (by simp)
  have hout := f.out.resolve_right (by simp)
  have hck := f.ckResult.resolve_right (by simp)
  have hext := f.extData.resolve_right (by simp [extCommands])
  exact ⟨f.operands, f.outside, hnav, hout, hck, hext, f.ovr,
    fun hfail => f.frameInfo.resolve_right (by simp [hfail]),
    windowKeptExcept_of_results f.operands (fun _ => .inl) (.inl hck) (.inl hext) (.inl hout.2) (.inr fun _ => .inr)
      (.inl hnav.1) (.inl hout.1)⟩

/-- Settles O33: of the results ubx.decode writes FRAME_INFO, after a passed validation, and NAV with NAV_VALID, when it
is accepted. -/
theorem ubxDecodeKeepsTheRest : Obligations.UbxDecodeKeepsTheRest := by
  intro s t h
  have f := exec_commandFrame h
  have hout := f.out.resolve_right (by simp)
  have hck := f.ckResult.resolve_right (by simp)
  have hext := f.extData.resolve_right (by simp [extCommands])
  exact ⟨f.operands, f.outside, hout, hck, hext, f.ovr, fun hfail => f.nav.resolve_right (by simp [hfail]),
    fun hbad => f.frameInfo.resolve_right (by simp [hbad]),
    windowKeptExcept_of_results f.operands (fun _ => .inl) (.inl hck) (.inl hext) (.inl hout.2)
      (.inr fun _ h => .inr (.inl h)) (.inr fun _ h => .inr (.inr h)) (.inl hout.1)⟩

/-- Settles O34: of the results cfg.* writes OUT_BUF and OUT_LEN. -/
theorem configBuildersKeepTheRest : Obligations.ConfigBuildersKeepTheRest := by
  intro i s t hi h
  have f := exec_commandFrame h
  obtain ⟨hnav, hck, hext, hinfo⟩ :
      NavKept s t ∧ t.ckResult = s.ckResult ∧ t.extData = s.extData ∧ t.frameInfo = s.frameInfo := by
    obtain rfl | ⟨r, rfl⟩ := hi <;>
      exact ⟨f.nav.resolve_right (by simp), f.ckResult.resolve_right (by simp),
        f.extData.resolve_right (by simp [extCommands]), f.frameInfo.resolve_right (by simp)⟩
  exact ⟨f.operands, f.outside, hnav, hck, hext, hinfo, f.ovr,
    windowKeptExcept_of_results f.operands (fun _ => .inl) (.inl hck) (.inl hext) (.inr fun _ h => .inr (.inl h))
      (.inl hinfo) (.inl hnav.1) (.inr fun _ h => .inr (.inr h))⟩

end Sys2Proof.Machine
end

section
/-! PROOFS. The statements of spec/20_memory.md on the host port: what a read composes (R63, R65), the registers at
their offsets (R22 to R40), BusErrors (R66, R310), and the writes to the operands and to IN_BUF (R64). -/

namespace Sys2Proof.Machine

/-! ### Reads and writes as steps (R63, R64, R310) -/

theorem memRead_illegal {addr : Addr} {n : AccessSize} (s : State) (hl : ¬ LegalAccess addr.toNat n) :
    memRead addr n s = none := if_pos ((isBusError_iff _ _).mpr hl)

theorem memWrite_illegal {addr : Addr} {n : AccessSize} (v : Word) (s : State) (hl : ¬ LegalAccess addr.toNat n) :
    memWrite addr n v s = none := if_pos ((isBusError_iff _ _).mpr hl)

theorem perform_read_illegal {addr : Addr} {n : AccessSize} (s : State) (hl : ¬ LegalAccess addr.toNat n) :
    perform (.read addr n) s = .next { s with port := .busError } := by
  rw [perform, hostRead, memRead_illegal s hl]

theorem perform_write_illegal {addr : Addr} {n : AccessSize} (v : Word) (s : State)
    (hl : ¬ LegalAccess addr.toNat n) : perform (.write addr n v) s = .next { s with port := .busError } := by
  rw [perform, hostWrite, memWrite_illegal v s hl]

theorem perform_read_of_memRead {addr : Addr} {n : AccessSize} {s : State} {d : Word} (h : memRead addr n s = some d) :
    perform (.read addr n) s = .next { s with port := .data d } := by
  rw [perform, hostRead, h]

theorem perform_write_of_memWrite {addr : Addr} {n : AccessSize} {v : Word} {s u : State}
    (h : memWrite addr n v s = some u) : perform (.write addr n v) s = .next { u with port := .written } := by
  rw [perform, hostWrite_of_memWrite h]

/-- A legal write is taken or dropped, and answered either way (R64). -/
theorem memWrite_legal {addr : Addr} {n : AccessSize} (v : Word) (s : State) (hl : LegalAccess addr.toNat n) :
    ∃ u, memWrite addr n v s = some u := by
  by_cases hd : s.status.busy = true ∧ operandOffset s.params.nIn addr.toNat
  · exact ⟨_, memWrite_dropped addr n v s hl hd.1 hd.2⟩
  · exact ⟨_, memWrite_taken s addr n v hl hd⟩

/-- Settles O40: the condition is that the access is not legal; a legal read answers, and a legal write too. -/
theorem busErrorChangesNothing : Obligations.BusErrorChangesNothing := by
  intro s addr n v
  refine ⟨fun hbad => ?_, fun haligned hsize => ?_⟩
  · have hl : ¬ LegalAccess addr.toNat n := fun hl => hbad.elim (· hl.1) fun h => h.2 (hl.2 h.1)
    exact ⟨memRead_illegal s hl, memWrite_illegal v s hl, perform_read_illegal s hl, perform_write_illegal v s hl⟩
  · have hl : LegalAccess addr.toNat n := ⟨haligned, hsize.resolve_left ∘ Nat.not_le.mpr⟩
    have hread := memRead_legal addr n s hl
    obtain ⟨u, hwrite⟩ := memWrite_legal v s hl
    exact ⟨⟨_, hread, perform_read_of_memRead hread⟩, u, hwrite, perform_write_of_memWrite hwrite⟩

/-! ### The bytes of the window (R61, R63) -/

theorem State.byteAt_outBuf (s : State) (i : Fin 17) : s.byteAt (0x100 + i) = s.outBuf[i] := by
  rw [State.byteAt, if_neg (by omega), if_pos (by omega), State.outByte, Nat.add_sub_cancel_left]
  simp

theorem State.byteAt_inBuf (s : State) {i : Nat} (h : i < s.params.nIn) : s.byteAt (0x400 + i) = s.inByte i := by
  rw [State.byteAt, if_neg (by omega), if_neg (by omega), if_pos (by omega), Nat.add_sub_cancel_left]

/-- Nothing stands between OUT_BUF and IN_BUF, nor past IN_BUF (R61). -/
theorem State.byteAt_outside (s : State) {o : Nat} (h : (0x111 ≤ o ∧ o < 0x400) ∨ 0x400 + s.params.nIn ≤ o) :
    s.byteAt o = 0#8 := by
  rw [State.byteAt, if_neg (by omega), if_neg (by omega), if_neg (by omega)]

/-- What a legal read answers: a number whose byte `k` is the window's byte at `addr + k`, with nothing above. -/
theorem memRead_bytes {addr : Addr} {n : AccessSize} (s : State) (hl : LegalAccess addr.toNat n) :
    ∃ v, memRead addr n s = some v ∧ (∀ k, k < n.bytes → byteOf v k = s.byteAt (addr.toNat + k)) ∧
      v.toNat < 2 ^ (8 * n.bytes) := by
  have hn : n.bytes ≤ 4 := by cases n <;> decide
  refine ⟨_, memRead_legal addr n s hl, fun k hk => byteOf_composeLE _ _ _ k hn hk, ?_⟩
  rw [Nat.pow_mul]
  exact (composeLE_toNat _ _ _ hn).2

/-- Settles O35: the answer's bytes are those of the composition, and each region of the window gives its own. -/
theorem hostReadComposesTheBytes : Obligations.HostReadComposesTheBytes := by
  refine ⟨fun s addr n => ⟨fun hl => ⟨memRead_illegal s hl, perform_read_illegal s hl⟩, fun hl => ?_⟩,
    fun s o => ?_⟩
  · obtain ⟨v, hv, hbytes, hlt⟩ := memRead_bytes s hl
    exact ⟨v, hv, fun k hk => byteOf_eq_shift v k ▸ hbytes k hk, hlt, perform_read_of_memRead hv⟩
  · exact ⟨fun ho => byteOf_eq_shift _ _ ▸ s.byteAt_register o ho, s.byteAt_outBuf, fun i => s.byteAt_inBuf,
      fun hlo hhi => s.byteAt_outside (.inl ⟨hlo, hhi⟩), fun h => s.byteAt_outside (.inr h)⟩

/-! ### The registers (R22 to R40) -/

theorem half_setWidth (x : Half) : x.setWidth 32 = 0#16 ++ x := BitVec.setWidth_eq_append (by decide)

theorem byte_setWidth (x : Byte) : x.setWidth 32 = 0#24 ++ x := BitVec.setWidth_eq_append (by decide)

theorem State.regAt_nav (s : State) (k : Fin 32) : s.regAt (0x040 + 4 * k) = s.nav[k] := by
  unfold State.regAt
  iterate 10 rw [if_neg (by omega)]
  rw [if_pos (by omega), Nat.add_sub_cancel_left, Nat.mul_div_cancel_left _ (by decide)]
  simp

/-- Settles O36: each offset is a register's, and its fields stand above zeros. -/
theorem registersReadAtTheirOffsets : Obligations.RegistersReadAtTheirOffsets := by
  intro s
  have read (addr : Addr) (ha : addr.toNat % 4 = 0) (h : addr.toNat < 0x100) := memRead_register s addr ha h
  rw [← half_setWidth, ← half_setWidth, ← half_setWidth, ← byte_setWidth]
  refine ⟨read _ rfl (by decide), read _ rfl (by decide), read _ rfl (by decide), read _ rfl (by decide),
    read _ rfl (by decide), read _ rfl (by decide), read _ rfl (by decide), read _ rfl (by decide),
    read _ rfl (by decide), read _ rfl (by decide), fun k => ?_⟩
  have haddr : (BitVec.ofNat 12 (0x040 + 4 * k)).toNat = 0x040 + 4 * k := by
    rw [BitVec.toNat_ofNat]
    omega
  rw [read _ (by omega) (by omega), haddr, State.regAt_nav]

/-! ### Writes to the registers (R24, R64) -/

theorem legalAccess_register {addr : Addr} (h : addr.toNat % 4 = 0) : LegalAccess addr.toNat .four :=
  ⟨h, fun _ => rfl⟩

theorem memWrite_register_of_idle {s : State} (addr : Addr) (v : Word) (hb : s.status.busy = false)
    (h : addr.toNat % 4 = 0) :
    memWrite addr .four v s = some (writeTarget (target s.params.nIn addr.toNat) .four v s) :=
  memWrite_taken s addr .four v (legalAccess_register h) (by simp [hb])

/-- Settles O38: the target of each operand's offset is that operand, and any other offset but STATUS's has none. -/
theorem hostWritesReachTheirRegisters : Obligations.HostWritesReachTheirRegisters := by
  refine fun s v => ⟨fun hb => ?_, fun addr n hl hne ho => ?_⟩
  · exact ⟨memWrite_register_of_idle 0x008 v hb rfl, memWrite_register_of_idle 0x00C v hb rfl,
      memWrite_register_of_idle 0x010 v hb rfl, memWrite_register_of_idle 0x020 v hb rfl⟩
  · have hstatus : addr.toNat ≠ 0x004 := fun ha => hne (BitVec.eq_of_toNat_eq ha)
    rw [memWrite_taken s addr n v hl fun hd => ho hd.2, writeTarget_of_not_operand _ _ n v s ho, if_neg hstatus]

/-- The five one-bit fields of STATUS as the host reads them (R24). -/
theorem Status.toWord_bits (st : Status) :
    st.toWord.getLsbD 0 = st.busy ∧ st.toWord.getLsbD 1 = st.done ∧ st.toWord.getLsbD 2 = st.pass
    ∧ st.toWord.getLsbD 3 = st.navValid ∧ st.toWord.getLsbD 8 = st.ovr := by
  simp only [Status.toWord, BitVec.getLsbD_append]
  simp

/-- REASON stands above the four low bits of STATUS. -/
theorem Status.toWord_reason (st : Status) : st.toWord.extractLsb' 4 4 = st.reason.code := by
  unfold Status.toWord
  iterate 4 rw [BitVec.extractLsb'_append_eq_of_le (by decide)]
  exact BitVec.extractLsb'_append_eq_right

theorem Status.toWord_shift_nine (st : Status) : st.toWord >>> 9 = 0#32 := by
  apply BitVec.eq_of_getLsbD_eq
  intro i _
  rw [BitVec.getLsbD_ushiftRight, st.toWord_getLsbD_high _ (by omega), BitVec.getLsbD_zero]

/-- Settles O12: the fields by their bits, a write to STATUS as an update of OVR, and the codes by evaluation. -/
theorem statusWordHoldsTheFields : Obligations.StatusWordHoldsTheFields := by
  refine ⟨fun s => ?_, fun s v => ?_, by decide⟩
  · obtain ⟨hbusy, hdone, hpass, hvalid, hovr⟩ := s.status.toWord_bits
    exact ⟨_, memRead_register s 0x004 rfl (by decide), hbusy, hdone, hpass, hvalid, s.status.toWord_reason, hovr,
      s.status.toWord_shift_nine⟩
  · rw [memWrite_status .four v s (legalAccess_register (addr := 0x004) rfl), Status.hostWrite_eq]
    cases v.getLsbD 8 <;> simp

/-! ### Writes to IN_BUF (R64, R65) -/

theorem memWrite_inBuf {s : State} {addr : Addr} {n : AccessSize} {i : Nat} (v : Word) (hb : s.status.busy = false)
    (hl : LegalAccess addr.toNat n) (ha : addr.toNat = 0x400 + i) (hi : i < s.params.nIn) :
    memWrite addr n v s = some { s with inBuf := s.inBuf.writeLE i v n.bytes } := by
  rw [memWrite_taken s addr n v hl (by simp [hb]), target_inBuf _ _ (by omega) (by omega), ha,
    Nat.add_sub_cancel_left]
  rfl

/-- Of the window only IN_BUF's part depends on IN_BUF. -/
theorem State.byteAt_with_inBuf (s : State) (m : Memory) (o : Nat) :
    ({ s with inBuf := m } : State).byteAt o =
      if 0x400 ≤ o ∧ o < 0x400 + s.params.nIn then ({ s with inBuf := m } : State).inByte (o - 0x400)
      else s.byteAt o := by
  split
  next h =>
    obtain ⟨i, rfl⟩ := Nat.exists_eq_add_of_le h.1
    rw [Nat.add_sub_cancel_left]
    exact State.byteAt_inBuf _ (show i < s.params.nIn by omega)
  next h =>
    unfold State.byteAt
    rw [if_neg h, if_neg h]
    rfl

/-- Settles O39: the write stores its bytes in IN_BUF, inside the capacity, and the window shows IN_BUF there. -/
theorem inBufWritesReadBack : Obligations.InBufWritesReadBack := by
  rintro s addr n v ⟨-, -, hn⟩ hb hl hlo hhi
  obtain ⟨i, ha⟩ := Nat.exists_eq_add_of_le hlo
  have hi : i < s.params.nIn := by omega
  have hend : i + n.bytes ≤ s.params.nIn := (ha ▸ hl : LegalAccess (0x400 + i) n).inBuf_end hn hi
  refine ⟨_, memWrite_inBuf v hb hl ha hi, rfl, fun o => ?_⟩
  rw [State.byteAt_with_inBuf, State.inByte_writeLE, ha]
  by_cases hin : 0x400 ≤ o ∧ o < 0x400 + s.params.nIn
  · obtain ⟨j, rfl⟩ := Nat.exists_eq_add_of_le hin.1
    rw [if_pos hin, Nat.add_sub_cancel_left, Nat.add_sub_add_left, s.byteAt_inBuf (by omega), byteOf_eq_shift]
    exact if_congr (by omega) rfl rfl
  · rw [if_neg hin, if_neg (by omega)]

/-- Byte 0 of a byte extended to a word is that byte. -/
theorem byteOf_setWidth (b : Byte) : byteOf (b.setWidth 32) 0 = b := by
  rw [byte_setWidth]
  exact BitVec.extractLsb'_append_eq_right

theorem byteOf_append (b0 b1 b2 b3 : Byte) :
    byteOf (b3 ++ b2 ++ b1 ++ b0) 0 = b0 ∧ byteOf (b3 ++ b2 ++ b1 ++ b0) 1 = b1 ∧
      byteOf (b3 ++ b2 ++ b1 ++ b0) 2 = b2 ∧ byteOf (b3 ++ b2 ++ b1 ++ b0) 3 = b3 := by
  have above {n : Nat} (x : BitVec n) (b : Byte) (k : Nat) :
      (x ++ b).extractLsb' (8 * (k + 1)) 8 = x.extractLsb' (8 * k) 8 :=
    BitVec.extractLsb'_append_eq_of_le (by omega)
  have low {n : Nat} (x : BitVec n) (b : Byte) : (x ++ b).extractLsb' 0 8 = b := BitVec.extractLsb'_append_eq_right
  refine ⟨low _ b0, (above _ b0 0).trans (low _ b1), (above _ b0 1).trans ((above _ b1 0).trans (low _ b2)),
    (above _ b0 2).trans ((above _ b1 1).trans ((above _ b2 0).trans BitVec.extractLsb'_eq_self))⟩

/-- `s` with IN_BUF `m`, and the last access answered as written. -/
def State.answered (s : State) (m : Memory) : State := { s with inBuf := m, port := .written }

/-- A byte write to IN_BUF of an idle core stores the byte and is answered (R64). -/
theorem hostWrite_inBuf_byte {s : State} {a i : Nat} (b : Byte) (hb : s.status.busy = false) (ha : a = 0x400 + i)
    (hi : i < s.params.nIn) (hn : s.params.nIn ≤ 1024) :
    hostWrite (BitVec.ofNat 12 a) .one (b.setWidth 32) s = s.answered (s.inBuf.write i b) := by
  have haddr : (BitVec.ofNat 12 a).toNat = 0x400 + i := by
    rw [BitVec.toNat_ofNat, ha]
    omega
  have hl : LegalAccess (BitVec.ofNat 12 a).toNat .one := ⟨Nat.mod_one _, by omega⟩
  rw [hostWrite_of_memWrite (memWrite_inBuf _ hb hl haddr hi)]
  simp only [AccessSize.bytes, Memory.writeLE, byteOf_setWidth, Nat.add_zero, State.answered]

/-- Settles O41: both sides store the four bytes at the same places in the same order. -/
theorem wordWriteIsFourByteWrites : Obligations.WordWriteIsFourByteWrites := by
  rintro s i b0 b1 b2 b3 ⟨-, hmax, hn⟩ hb h4 hi
  have haddr : (BitVec.ofNat 12 (0x400 + i)).toNat = 0x400 + i := by
    rw [BitVec.toNat_ofNat]
    omega
  have hl : LegalAccess (BitVec.ofNat 12 (0x400 + i)).toNat .four := by
    rw [haddr]
    exact ⟨by simp only [AccessSize.bytes]; omega, fun _ => rfl⟩
  obtain ⟨h0, h1, h2, h3⟩ := byteOf_append b0 b1 b2 b3
  rw [hostWrite_of_memWrite (memWrite_inBuf _ hb hl haddr hi), hostWrite_inBuf_byte b0 hb rfl hi hmax,
    hostWrite_inBuf_byte (s := s.answered _) (i := i + 1) b1 hb (by omega) (show i + 1 < s.params.nIn by omega) hmax,
    hostWrite_inBuf_byte (s := (s.answered _).answered _) (i := i + 2) b2 hb (by omega)
      (show i + 2 < s.params.nIn by omega) hmax,
    hostWrite_inBuf_byte (s := ((s.answered _).answered _).answered _) (i := i + 3) b3 hb (by omega)
      (show i + 3 < s.params.nIn by omega) hmax]
  simp only [AccessSize.bytes, Memory.writeLE, h0, h1, h2, h3, Nat.add_zero, State.answered]

end Sys2Proof.Machine
end

section
/-! PROOFS. The statement of spec/60_exceptions.md on simultaneous events (R313): a write of IN_SIZE and a completion in
either order, by what a dropped write leaves of a command's outcome. -/

namespace Sys2Proof.Machine

/-- What a dropped write leaves (R44, R64): OVR, and the answer. -/
def State.dropped (s : State) : State := { s with status := s.status.overrun, port := .written }

/-- An outcome after which a write is dropped. -/
def outcomeDropped : Host.Outcome State Fault Refusal → Host.Outcome State Fault Refusal
  | .next t => .next t.dropped
  | .fault r => .fault r
  | .refused r => .refused r

/-- The dispatch and the record's check read IN_BUF and IN_SIZE, which a drop keeps. -/
theorem decodeValidated_dropped (s : State) : decodeValidated s.dropped = (decodeValidated s).dropped := by
  by_cases hmsg : s.inByte 2 = 0x01#8 ∧ s.inByte 3 = 0x07#8
  · by_cases hok : pvtCheck s = .ok
    · rw [decodeValidated_accepted hmsg hok]
      exact decodeValidated_accepted (s := s.dropped) hmsg hok
    · rw [decodeValidated_rejected hmsg rfl hok]
      exact decodeValidated_rejected (s := s.dropped) hmsg rfl hok
  · rw [decodeValidated_unrouted hmsg]
    exact decodeValidated_unrouted (s := s.dropped) hmsg

theorem extCommand_dropped (off n : Nat) (signed : Bool) (s : State) :
    extCommand off n signed s.dropped = outcomeDropped (extCommand off n signed s) := by
  unfold extCommand
  rw [apply_ite outcomeDropped]
  rfl

/-- A command after a drop has the outcome of the command before it. -/
theorem exec_dropped (i : Instr) (s : State) : exec i s.dropped = outcomeDropped (exec i s) := by
  cases i with
  | nop => rfl
  | ckCompute =>
    rw [exec_ckCompute s, execCkCompute, apply_ite outcomeDropped, apply_ite outcomeDropped]
    rfl
  | ckVerify =>
    rw [exec_ckVerify s, execCkVerify, apply_ite outcomeDropped, apply_ite outcomeDropped, apply_ite outcomeDropped]
    rfl
  | frameValidate =>
    rw [exec_frameValidate s, execFrameValidate, apply_ite outcomeDropped]
    rfl
  | ubxDecode =>
    by_cases hv : validate s = .ok
    · rw [exec_ubxDecode_of_valid hv]
      exact (exec_ubxDecode_of_valid (s := s.dropped) hv).trans (congrArg Host.Outcome.next (decodeValidated_dropped
        { s with frameInfo := { cls := s.inByte 2, id := s.inByte 3, len := s.inByte 5 ++ s.inByte 4 } }))
    · rw [exec_ubxDecode_of_invalid hv]
      exact exec_ubxDecode_of_invalid (s := s.dropped) hv
  | extU8 off => exact extCommand_dropped off 1 false s
  | extU16 off => exact extCommand_dropped off 2 false s
  | extU32 off => exact extCommand_dropped off 4 false s
  | extI8 off => exact extCommand_dropped off 1 true s
  | extI16 off => exact extCommand_dropped off 2 true s
  | extI32 off => exact extCommand_dropped off 4 true s
  | cfgNmeaOff => rfl
  | cfgRate rate => rfl

theorem completeWord_dropped (w : Word) (s : State) : completeWord w s.dropped = outcomeDropped (completeWord w s) := by
  unfold completeWord
  cases decode w with
  | instr i => exact exec_dropped i s
  | illegal why => rfl

theorem engineTurn_dropped (s : State) : engineTurn s.dropped = outcomeDropped (engineTurn s) := by
  cases hp : s.pending with
  | none =>
    rw [engineTurn_idle s hp]
    exact engineTurn_idle s.dropped hp
  | some w =>
    have hturn (t : State) (ht : t.pending = some w) : engineTurn t = completeWord w t := by rw [engineTurn, ht]
    rw [hturn s hp, hturn s.dropped hp, completeWord_dropped]

/-- A legal write of an operand while BUSY is dropped and answered (R44). -/
theorem hostWrite_eq_dropped {addr : Addr} {n : AccessSize} (v : Word) {s : State} (hl : LegalAccess addr.toNat n)
    (hb : s.status.busy = true) (ho : operandOffset s.params.nIn addr.toNat) : hostWrite addr n v s = s.dropped :=
  hostWrite_of_memWrite (memWrite_dropped addr n v s hl hb ho)

/-- Settles O54: a command in flight makes BUSY 1, so the earlier write is dropped, and the completion after the drop is
the completion without it; the completion makes BUSY 0, so the later write is taken. -/
theorem writeAndCompletionInEitherOrder : Obligations.WriteAndCompletionInEitherOrder := by
  intro s w v hs hp
  have hbusy : s.status.busy = true := by rw [hs.busy_iff_pending, hp]; rfl
  have hl : LegalAccess (0x008 : Addr).toNat .four := legalAccess_register rfl
  obtain ⟨t, ht, -, hidle⟩ := engineTurn_completes hs
  refine ⟨t, ht, ?_, hostWrite_of_memWrite (memWrite_register_of_idle 0x008 v hidle rfl)⟩
  rw [hostWrite_eq_dropped v hl hbusy (.inr (.inl rfl)), engineTurn_dropped, ht]
  rfl

end Sys2Proof.Machine
end

section
/-! PROOFS. The laws of spec/40_checksum.md: the accumulator's closed form (section 1), and the effect of one byte and
the packed comparison of the trailer (section 3). -/

namespace Sys2Proof.Machine

/-! ### The closed form (section 1) -/

/-- The sum of the first `n` bytes from `i`. -/
def byteSum (s : State) (i n : Nat) : Nat := ((List.range n).map fun t => (s.inByte (i + t)).toNat).sum

/-- The same bytes, the first with weight `n` and each next one with one less. -/
def weightedSum (s : State) (i n : Nat) : Nat :=
  ((List.range n).map fun t => (n - t) * (s.inByte (i + t)).toNat).sum

theorem byteSum_succ (s : State) (i n : Nat) : byteSum s i (n + 1) = byteSum s i n + (s.inByte (i + n)).toNat := by
  simp [byteSum, List.range_succ]

/-- One more byte raises every weight by one. -/
theorem weightedSum_succ (s : State) (i n : Nat) :
    weightedSum s i (n + 1) = weightedSum s i n + byteSum s i (n + 1) := by
  have hweight : (List.range n).map (fun t => (n + 1 - t) * (s.inByte (i + t)).toNat) =
      (List.range n).map fun t => (n - t) * (s.inByte (i + t)).toNat + (s.inByte (i + t)).toNat := by
    refine List.map_congr_left fun t ht => ?_
    rw [Nat.succ_sub (List.mem_range.mp ht).le, Nat.succ_mul]
  rw [byteSum_succ, weightedSum, List.range_succ, List.map_append, List.sum_append, hweight, List.sum_map_add]
  simp [weightedSum, byteSum, Nat.add_assoc]

theorem fletcher_closed_form (s : State) (i n : Nat) :
    (fletcher s i (i + n)).1.toNat = byteSum s i n % 256 ∧
      (fletcher s i (i + n)).2.toNat = weightedSum s i n % 256 := by
  induction n with
  | zero => simp [fletcher_empty, byteSum, weightedSum]
  | succ n ih =>
    obtain ⟨ha, hb⟩ := ih
    rw [← Nat.add_assoc, fletcher_succ s i (i + n) (Nat.le_add_right i n), weightedSum_succ, byteSum_succ]
    simp only [fletcherStep, BitVec.toNat_add, ha, hb]
    omega

/-- Settles O18, by induction on the number of bytes. -/
theorem fletcherHasTheClosedForm : Obligations.FletcherHasTheClosedForm := fletcher_closed_form

/-! ### One byte of the range (R123) -/

/-- `s` with the byte `b` written at frame offset `k`. -/
def State.withByteAt (s : State) (k : Nat) (b : Byte) : State := { s with inBuf := s.inBuf.write k b }

theorem State.withByteAt_inByte (s : State) (k : Nat) (b : Byte) (x : Nat) :
    (s.withByteAt k b).inByte x = if k = x then b else s.inByte x := s.inByte_write k b x

/-- The first sum takes on the byte's change at the byte's turn, and keeps it to the range's end. -/
theorem fletcher_withByteAt_fst (s : State) (i k : Nat) (b : Byte) (hik : i ≤ k) (d : Nat) :
    (fletcher (s.withByteAt k b) i (k + 1 + d)).1 = (fletcher s i (k + 1 + d)).1 + (b - s.inByte k) := by
  induction d with
  | zero =>
    have hbefore : fletcher (s.withByteAt k b) i k = fletcher s i k :=
      fletcher_congr s _ i k fun x _ hx => by rw [s.withByteAt_inByte, if_neg (by omega)]
    rw [Nat.add_zero, fletcher_succ _ i k hik, fletcher_succ _ i k hik, hbefore, s.withByteAt_inByte, if_pos rfl]
    simp only [fletcherStep]
    bv_omega
  | succ d ih =>
    rw [← Nat.add_assoc, fletcher_succ _ i _ (by omega), fletcher_succ _ i _ (by omega), s.withByteAt_inByte,
      if_neg (by omega)]
    simp only [fletcherStep, ih]
    bv_omega

/-- Settles O55: the change is that of the first sum, and it is 0 only when the byte stays. -/
theorem oneByteAlwaysChangesCkA : Obligations.OneByteAlwaysChangesCkA := by
  intro s i j k b hik hkj
  obtain ⟨d, rfl⟩ : ∃ d, j = k + 1 + d := Nat.exists_eq_add_of_le hkj
  have hchange := fletcher_withByteAt_fst s i k b hik d
  refine ⟨hchange, fun hne heq => hne ?_⟩
  have hzero : (fletcher s i (k + 1 + d)).1 + (b - s.inByte k) = (fletcher s i (k + 1 + d)).1 := hchange.symm.trans heq
  bv_omega

/-! ### The trailer as a 16-bit number (R124) -/

/-- The last byte shifted above the one before it is their concatenation. -/
theorem packed_eq_append (lo hi : Byte) : lo.setWidth 16 ||| hi.setWidth 16 <<< 8 = hi ++ lo := by
  rw [BitVec.append_def, BitVec.shiftLeftZeroExtend_eq, BitVec.or_comm]
  rfl

theorem append_byte_inj (a b c d : Byte) : a ++ b = c ++ d ↔ a = c ∧ b = d := by
  refine ⟨fun h => ?_, fun ⟨hac, hbd⟩ => by rw [hac, hbd]⟩
  have hlow (x y : Byte) : (x ++ y).extractLsb' 0 8 = y := BitVec.extractLsb'_append_eq_right
  obtain rfl : b = d := by rw [← hlow a b, h, hlow]
  exact ⟨(BitVec.append_left_inj b).mp h, rfl⟩

/-- Settles O56: the packed number is the concatenation of its bytes, which determines them. -/
theorem packedComparisonIsByteWise : Obligations.PackedComparisonIsByteWise := by
  intro s size ck
  rw [packed_eq_append, append_byte_inj, checksumMatches_iff, and_comm]

end Sys2Proof.Machine
end

section
/-! PROOFS. The round trip of a built frame through the validator (spec/45_config_builder.md section 3), and the
extractor command of a field against its NAV register (spec/30_encoding.md R101, spec/43_pvt_decoder.md R180). -/

namespace Sys2Proof.Machine

/-! ### A built frame in IN_BUF (R240, R243) -/

/-- IN_BUF begins with the built frame, and IN_SIZE is its length. -/
structure State.HoldsBuilt (v : State) (key : Word) (value : Byte) : Prop where
  bytes : ∀ k : Fin 17, v.inByte k = (build key value)[k]
  size : v.inSize = 17#16
  params_ok : v.params.Ok

/-- What cfg.* leaves in OUT_BUF is a built frame (R241, R242). -/
theorem exec_cfg_outBuf {i : Instr} {s u : State} (hi : i = .cfgNmeaOff ∨ ∃ r, i = .cfgRate r)
    (h : exec i s = .next u) : ∃ key value, u.outBuf = build key value := by
  obtain rfl | ⟨r, rfl⟩ := hi
  · cases (exec_cfgNmeaOff s).symm.trans h
    exact ⟨_, _, rfl⟩
  · cases (exec_cfgRate r s).symm.trans h
    exact ⟨_, _, rfl⟩

section
variable {v : State} {key : Word} {value : Byte} (h : v.HoldsBuilt key value)
include h

theorem State.HoldsBuilt.inSize_toNat : v.inSize.toNat = 17 := by rw [h.size]; rfl

/-- The range under the checksum is the frame's thirteen covered bytes. -/
theorem State.HoldsBuilt.inRange : v.inRange 2 15 = (frameBody key value).drop 2 :=
  calc v.inRange 2 15 = (((List.finRange 17).drop 2).take 13).map fun k : Fin 17 => v.inByte k := rfl
    _ = (((List.finRange 17).drop 2).take 13).map fun k => (build key value)[k] :=
      List.map_congr_left fun k _ => h.bytes k
    _ = (frameBody key value).drop 2 := rfl

/-- The frame's last two bytes are the pair over the covered ones. -/
theorem State.HoldsBuilt.checksumMatches : checksumMatches v = true := by
  rw [checksumMatches_iff_pair, h.inSize_toNat, fletcher, h.inRange]
  exact Prod.ext (h.bytes 15).symm (h.bytes 16).symm

theorem State.HoldsBuilt.validate : validate v = .ok := by
  obtain ⟨hmin, -, -⟩ := h.params_ok
  have hsize := h.inSize_toNat
  have hsync : ¬ (v.inByte 0 ≠ 0xB5#8 ∨ v.inByte 1 ≠ 0x62#8) := by
    rw [not_or, not_not, not_not]
    exact ⟨h.bytes 0, h.bytes 1⟩
  rw [validate_of_size v (by omega) (by omega), if_neg hsync, if_pos h.checksumMatches]

theorem State.HoldsBuilt.header :
    ({ cls := v.inByte 2, id := v.inByte 3, len := v.inByte 5 ++ v.inByte 4 } : FrameInfo) =
      { cls := 0x06#8, id := 0x8A#8, len := 0x0009#16 } := by
  have hcls : v.inByte 2 = 0x06#8 := h.bytes 2
  have hid : v.inByte 3 = 0x8A#8 := h.bytes 3
  have hlow : v.inByte 4 = 0x09#8 := h.bytes 4
  have hhigh : v.inByte 5 = 0x00#8 := h.bytes 5
  rw [hcls, hid, hlow, hhigh]
  rfl

theorem State.HoldsBuilt.ckVerify : exec .ckVerify v = .next (accept v) := by
  obtain ⟨hmin, -, -⟩ := h.params_ok
  have hsize := h.inSize_toNat
  rw [exec_ckVerify, execCkVerify_checked v (by omega) (by omega), if_pos h.checksumMatches]

theorem State.HoldsBuilt.frameValidate : exec .frameValidate v =
    .next (accept { v with frameInfo := { cls := 0x06#8, id := 0x8A#8, len := 0x0009#16 } }) := by
  rw [exec_frameValidate, execFrameValidate, if_pos h.validate, headerOf_eq, h.header]

/-- CFG-VALSET is not a row of DISPATCH (R220). -/
theorem State.HoldsBuilt.ubxDecode : exec .ubxDecode v =
    .next (reject .unknownMessage { v with frameInfo := { cls := 0x06#8, id := 0x8A#8, len := 0x0009#16 } }) := by
  have hcls : v.inByte 2 = 0x06#8 := h.bytes 2
  have hmsg : ¬ (v.inByte 2 = 0x01#8 ∧ v.inByte 3 = 0x07#8) := by simp [hcls]
  rw [exec_ubxDecode_of_valid h.validate, h.header]
  exact congrArg Host.Outcome.next (decodeValidated_unrouted (s := { v with frameInfo := _ }) hmsg)

end

/-- Settles O57: the copied frame is a built one, whose checksum matches and whose message is not routed. -/
theorem builtFramesRoundTrip : Obligations.BuiltFramesRoundTrip := by
  intro i s u v hi h hcopy hsize hok
  obtain ⟨key, value, hbuilt⟩ := exec_cfg_outBuf hi h
  have hv : v.HoldsBuilt key value := ⟨fun k => hbuilt ▸ hcopy k, hsize, hok⟩
  exact ⟨hv.ckVerify, hv.frameValidate, hv.ubxDecode⟩

/-! ### The extractor command of a NAV field (R101, R180) -/

/-- The command of row `k` extracts the row's field at its frame offset. -/
theorem exec_extPvtCommand (k : Fin 32) (s : State) : exec (extPvtCommand k) s =
    extCommand (Config.hdrLen + navTable[k].payloadOff) navTable[k].bytes navTable[k].signed s := by
  fin_cases k <;> rfl

/-- An accepted ubx.decode committed the record of a frame of 100 bytes inside the capacity (R182 to R184, R221). -/
theorem ubxDecode_accepted_inversion {s t : State} (h : exec .ubxDecode s = .next t) (hpass : t.status.pass = true) :
    t.nav = Vector.ofFn (navValue s) ∧ 100 ≤ s.inSize.toNat ∧ s.inSize.toNat ≤ s.params.nIn := by
  obtain hacc | hrej := exec_inversion h
  · cases hacc with
    | ubxDecode hv hd hp => exact ⟨rfl, ((pvtCheck_ok s).mp hp).2, (validate_ok s hv).1⟩
  · obtain ⟨c, hc⟩ := hrej.status_eq
    rw [hc] at hpass
    cases hpass

/-- A completion keeps what an extraction reads. -/
theorem OperandsKept.extract_eq {s t : State} (h : OperandsKept s t) (i n : Nat) (signed : Bool) :
    extract t i n signed = extract s i n signed := by
  have hle : le t i n = le s i n := composeLE_congr _ _ i n fun k _ => s.inByte_congr t h.inBuf h.draws (i + k)
  unfold extract
  rw [hle]

/-- Settles O58: the field of row `k` lies in the decoded frame, which the decode kept, so the command extracts again
what NAV[k] was committed with. -/
theorem extPvtGivesTheNavRegister : Obligations.ExtPvtGivesTheNavRegister := by
  intro s t k h hpass
  obtain ⟨hnav, hsize, hcap⟩ := ubxDecode_accepted_inversion h hpass
  have hops := (exec_commandFrame h).operands
  have hrow : t.nav[k] = navValue s k := by simp [hnav]
  refine ⟨accept { t with extData := t.nav[k] }, ?_, rfl, rfl, rfl⟩
  rw [exec_extPvtCommand]
  refine extCommand_accepted ((hops.extract_eq _ _ _).trans hrow.symm) ?_ ?_
  · rw [hops.inSize, hops.params]
    exact hcap
  · rw [hops.inSize]
    exact (navTable_inside k).trans hsize

end Sys2Proof.Machine
end
